-- ==== Sys2Proof/Word.lean ====
section
/-! DEFINITION. The words of the block and the named things of its register window: bytes and bus words, one bus
access (20_memory R60), the registers of the map with their access types (10_state R21, R22), and the reasons for which
the decoder rejects a write (30_encoding R91, 60_exceptions R242). -/

namespace Sys2Proof

/-- A symbol, an element of GF(256) held as a byte (00_scope R9, glossary "symbol"). -/
abbrev Byte := BitVec 8

/-- One bus word (20_memory R60). -/
abbrev Word := BitVec 32

/-- The byte offset of an access from RS_BASE, `0x000` to `0x7FF` (20_memory R60). -/
abbrev Offset := BitVec 11

/-- The size of a bus access: 1, 2 or 4 bytes (20_memory R60). -/
inductive Size where
  | one
  | two
  | four
deriving DecidableEq, Repr

/-- One host write, `BusWrite(off, size, data)` (20_memory R60). A legal one is an instruction word of the block
(30_encoding R80). -/
structure BusWrite where
  off  : Offset
  size : Size
  data : Word
deriving DecidableEq, Repr

/-- The registers of the map (10_state R22), the arrays by index. -/
inductive Reg where
  | id | param0 | param1 | chkCapr | ctrl | cmd | status | errInfo
  | encData | encPad | encCount | gfA | gfB | gfR | decNerr
  | chkData | chkMax | chkSum | chkId | chkLen | chkCount | chkTrailer
  | parity (j : Fin 32)
  | syn (i : Fin 32)
  | errLoc (k : Fin 16)
  | cw (k : Byte)
deriving DecidableEq, Repr

/-- The access types of 10_state R21. -/
inductive Access where
  | ro
  | wo
  | rw
deriving DecidableEq, Repr

/-- Why a write is not an instruction of the block: a bad size, alignment or offset (60_exceptions R244 steps 1 and 2),
an opcode that is not legal, or a required-zero field that is not zero (step 5). -/
inductive Reject where
  | access
  | badOpcode
  | rsvdArg
deriving DecidableEq, Repr

end Sys2Proof
end

