-- ==== Sys2Proof/Config.lean ====
section
/-! DEFINITION. What one implementation fixes: the constants and parameters of 00_scope R7, the shape of the ROM
(10_state R51), and the free values that the spec leaves open (93_implementation_defined I6 and I7). -/

namespace Sys2Proof

/-- CHK_COMPARE_MODE (00_scope R7, 43_checksum R199). -/
inductive CompareMode where
  | sum
  | self
deriving DecidableEq, Repr

/-- The parameters that a model takes (00_scope R7). They are fixed for one machine. -/
structure Config where
  /-- FIELD_POLY: bit b is the coefficient of x^b (40_gf_arith R100). -/
  fieldPoly   : BitVec 9
  /-- HAS_CHK: the checksum validator is present. -/
  hasChk      : Bool
  /-- CHK_CAP, OPEN: the upper bound of CHK_MAX. -/
  chkCap      : Nat
  /-- CHK_COMPARE_MODE. -/
  compareMode : CompareMode
  /-- RS_BASE, OPEN: the bus address of the window. -/
  rsBase      : Nat
deriving DecidableEq, Repr

/-- Symbols of a full codeword (00_scope R7). -/
abbrev Config.nn : Nat := 255
/-- Parity symbols of a codeword (00_scope R7). -/
abbrev Config.nroots : Nat := 32
/-- First consecutive root (00_scope R7). -/
abbrev Config.fcr : Nat := 112
/-- Primitive element index (00_scope R7). -/
abbrev Config.prim : Nat := 11
/-- `PRIM^-1 mod NN` (00_scope R7). -/
abbrev Config.iprim : Nat := 116
/-- The longest message, `NN - NROOTS` (00_scope R7). -/
abbrev Config.kmax : Nat := 223
/-- The symbol errors that can be corrected, `NROOTS/2` (00_scope R7). -/
abbrev Config.t : Nat := 16
/-- The `index_of` sentinel of the zero element (00_scope R7, 40_gf_arith R101).
PRESUMED by the spec from general knowledge (93 G2), log 4. -/
abbrev Config.a0 : Byte := 255
/-- The reset value of CHK_MAX (00_scope R7). -/
abbrev Config.chkDefaultMax : BitVec 16 := 64

/-- The parameters at `State.reset`: the defaults of 00_scope R7, with FIELD_POLY PRESUMED (93 G1, log 4).
DESIGN CHOICE (log 3): for the two OPEN parameters, CHK_CAP = 1024 as in 95_test_vectors, and RS_BASE = 0. -/
def Config.default : Config where
  fieldPoly   := 0x187
  hasChk      := true
  chkCap      := 1024
  compareMode := .sum
  rsBase      := 0

/-- The ROM tables (10_state R51). -/
structure Rom where
  alphaTo : Vector Byte 256
  indexOf : Vector Byte 256
  poly    : Vector Byte 33
deriving DecidableEq, Repr

/-- FREE VALUE (93 I6, log 5): what the byte CW[k] holds after the n-th power-up, before any write to it. -/
opaque Config.powerUpByte : (n k : Nat) → Byte

/-- FREE VALUE (93 I7, log 6): what the n-th read of a JOBSET register while BUSY returns. -/
opaque Config.busyRead : (n : Nat) → Word

end Sys2Proof
end

