-- ==== Sys2Proof/Machine/Field.lean ====
section
/-! DEFINITION. The field GF(256), the ROM tables and the field operations (40_gf_arith R100 to R107). -/

namespace Sys2Proof.Machine

/-! ## The tables (40_gf_arith R100 to R103) -/

/-- Multiplication by alpha = x: the shift-and-reduce line of 40_gf_arith R101. -/
def xtime (fieldPoly : BitVec 9) (a : Byte) : Byte :=
  if a.msb then (a <<< 1) ^^^ fieldPoly.setWidth 8 else a <<< 1

/-- `n` successive powers of alpha, from `sr` on: the loop of 40_gf_arith R101. -/
def powersFrom (fieldPoly : BitVec 9) : (n : Nat) → (sr : Byte) → List Byte
  | 0, _ => []
  | n + 1, sr => sr :: powersFrom fieldPoly n (xtime fieldPoly sr)

/-- `alpha^e`, for any natural e. -/
def alphaPow (fieldPoly : BitVec 9) : (e : Nat) → Byte
  | 0 => 1
  | e + 1 => xtime fieldPoly (alphaPow fieldPoly e)

/-- FIELD_POLY has degree 8 and x has order exactly 255: `alpha^255 = 1`, and no earlier power is 1 (40_gf_arith R100). -/
def isPrimitive (fieldPoly : BitVec 9) : Bool :=
  fieldPoly.msb && (powersFrom fieldPoly 254 (xtime fieldPoly 1)).all (· != 1) && alphaPow fieldPoly 255 == 1

/-- `mod255(x)`, exact reduction (40_gf_arith R104). -/
def mod255 (x : Nat) : Nat := x % 255

end Sys2Proof.Machine

namespace Sys2Proof

/-- `alpha_to[e]`. -/
def Rom.alpha (rom : Rom) (e : Byte) : Byte := rom.alphaTo[e.toNat]'e.isLt

/-- `index_of[x]`. -/
def Rom.index (rom : Rom) (x : Byte) : Byte := rom.indexOf[x.toNat]'x.isLt

/-- `alpha_to[mod255(n)]`: the power of alpha with exponent n. -/
def Rom.alphaMod (rom : Rom) (n : Nat) : Byte := rom.alpha (BitVec.ofNat 8 (Machine.mod255 n))

end Sys2Proof

namespace Sys2Proof.Machine

/-! ## The field operations (40_gf_arith R105 to R107) -/

/-- `gmul(a, b)` (40_gf_arith R105). -/
def gmul (rom : Rom) (a b : Byte) : Byte :=
  if a = 0 ∨ b = 0 then 0 else rom.alphaMod ((rom.index a).toNat + (rom.index b).toNat)

/-- `gdiv(a, b)`, for b != 0 (40_gf_arith R106). Every use checks b first. -/
def gdiv (rom : Rom) (a b : Byte) : Byte :=
  if a = 0 then 0 else rom.alphaMod ((rom.index a).toNat + 255 - (rom.index b).toNat)

/-- `ginv(a)`, for a != 0 (40_gf_arith R107). Every use checks a first. -/
def ginv (rom : Rom) (a : Byte) : Byte := rom.alphaMod (255 - (rom.index a).toNat)

/-- `z^n` of a nonzero z (42_syndrome_decoder R168). -/
def gpow (rom : Rom) (z : Byte) (n : Nat) : Byte := rom.alphaMod ((rom.index z).toNat * n)

/-! ## Polynomials, as lists of coefficients, the constant term first -/

/-- The sum of two polynomials. -/
def polyAdd : List Byte → List Byte → List Byte
  | [], q => q
  | a :: p, [] => a :: p
  | a :: p, b :: q => (a ^^^ b) :: polyAdd p q

/-- `c * p(x)`. -/
def polyScale (rom : Rom) (c : Byte) (p : List Byte) : List Byte := p.map (gmul rom c)

/-- `x * p(x)`. -/
def polyShift (p : List Byte) : List Byte := 0 :: p

/-- `p(z)`, by Horner's rule from the highest coefficient. -/
def polyEval (rom : Rom) (p : List Byte) (z : Byte) : Byte := p.foldr (fun c acc => gmul rom acc z ^^^ c) 0

/-- The largest i with `p_i != 0`, and 0 for the zero polynomial. -/
def polyDegree : List Byte → Nat
  | [] => 0
  | _ :: p => if p.all (· == 0) then 0 else polyDegree p + 1

/-! ## The roots and the generator polynomial (40_gf_arith R102, 42_syndrome_decoder R160) -/

/-- The root `r_i = alpha^(mod255(PRIM*(FCR+i)))`. -/
def rootOf (rom : Rom) (i : Nat) : Byte := rom.alphaMod (Config.prim * (Config.fcr + i))

/-- `g(x)`, the product of the `(x - r_i)`. -/
def generator (rom : Rom) : List Byte :=
  (List.range Config.nroots).foldl (fun g i => polyAdd (polyShift g) (polyScale rom (rootOf rom i) g)) [1]

/-! ## The ROM -/

/-- A vector from the function that gives its entries. -/
def tabulate {α : Type} (n : Nat) (f : Nat → α) : Vector α n := ⟨((List.range n).map f).toArray, by simp⟩

/-- `alpha_to` as 40_gf_arith R101 builds it: the 255 powers of alpha, and 0 at the sentinel. -/
def buildAlphaTo (fieldPoly : BitVec 9) : Vector Byte 256 :=
  let powers := powersFrom fieldPoly 255 1
  tabulate 256 fun e => powers.getD e 0

/-- `index_of` as 40_gf_arith R101 builds it: the exponent of each nonzero element, and the sentinel at 0. -/
def buildIndexOf (fieldPoly : BitVec 9) : Vector Byte 256 :=
  let powers := powersFrom fieldPoly 255 1
  tabulate 256 fun x => if x = 0 then Config.a0 else BitVec.ofNat 8 (powers.idxOf (BitVec.ofNat 8 x))

/-- The ROM that 40_gf_arith R101 and R102 derive from FIELD_POLY: `poly[i] = index_of[g_i]`. -/
def buildRom (fieldPoly : BitVec 9) : Rom :=
  let rom : Rom :=
    { alphaTo := buildAlphaTo fieldPoly, indexOf := buildIndexOf fieldPoly, poly := Vector.replicate 33 0 }
  let g := generator rom
  { rom with poly := tabulate 33 fun i => rom.index (g.getD i 0) }

/-- The bytes of a table printed in rows of `n` bytes, each row one number, its first byte highest. -/
def tableBytes (n : Nat) : List Nat → List Byte
  | [] => []
  | row :: rows => (List.range n).map (fun i => BitVec.ofNat 8 (row >>> (8 * (n - 1 - i)))) ++ tableBytes n rows

/-- `alpha_to` as 40_gf_arith §4.1 prints it for FIELD_POLY = 0x187. -/
def printedAlphaTo : List Byte := tableBytes 16
  [0x0102040810204080878995ADDD3D7AF4, 0x6FDE3B76EC5FBEFB71E243868B91A5CD, 0x1D3A74E857AEDB3162C40F1E3C78F067,
   0xCE1B366CD8376EDC3F7EFC7FFE7BF66B, 0xD62B56ACDF3972E44F9EBBF165CA1326, 0x4C98B7E955AAD32142848F99B5ED5DBA,
   0xF361C203060C183060C0070E1C3870E0, 0x478E9BB1E54D9AB3E1458A93A1C50D1A, 0x3468D0274E9CBFF975EA53A6CB112244,
   0x8897A9D52D5AB4EF59B2E34182838185, 0x8D9DBDFD7DFA73E64B96ABD1254A94AF, 0xD9356AD42F5EBCFF79F263C60B162C58,
   0xB0E74992A3C1050A142850A0C7091224, 0x4890A7C9152A54A8D72952A4CF193264, 0xC8172E5CB8F769D223468C9FB9F56DDA,
   0x3366CC1F3E7CF877EE5BB6EB51A2C300]

/-- `index_of` as 40_gf_arith §4.2 prints it for FIELD_POLY = 0x187. -/
def printedIndexOf : List Byte := tableBytes 16
  [0xFF00016302C6646A03CDC7BC657E6B2A, 0x048DCE4EC8D4BDE166DD7F316C202BF3, 0x05578EE8CFAC4F83C9D9D541BE94E2B4,
   0x6727DEF080B132356D4521122C0DF438, 0x069B581A8F79E970D0C2ADA850758448, 0xCAFCDA8AD6544224BF9895F9E35EB515,
   0x686128BADF4CF12F81E6B23F33EE3610, 0x6E1846A6228813F72DB80E3DF5A4393B, 0x079E9C9D599F1B0890097A1CEAA0715A,
   0xD11DC37BAE0AA991515B767285A149EB, 0xCB7CFDC4DB1E8BD2D79255AA430B25AF, 0xC0739977965CFA52E4EC5F4AB6A21686,
   0x69C562FE297DBBCCE0D34D8CF21F30DC, 0x82ABE756B39340D834B0EF26370C1144, 0x6F78199A4774A7C1235389FB145DF897,
   0x2E4BB9600FED3EE5F687A5173AA33CB7]

/-- `poly` as 40_gf_arith §4.3 prints it for FIELD_POLY = 0x187. -/
def printedPoly : List Byte := tableBytes 11
  [0x00F93B42042B7EFB611E03, 0xD53242AA051805AA4232D5, 0x031E61FB7E2B04423BF900]

/-- The ROM as 40_gf_arith §4 prints it for FIELD_POLY = 0x187. -/
def printedRom : Rom where
  alphaTo := ⟨printedAlphaTo.toArray, by decide +kernel⟩
  indexOf := ⟨printedIndexOf.toArray, by decide +kernel⟩
  poly    := ⟨printedPoly.toArray, by decide +kernel⟩

/-- The contents of the ROM (40_gf_arith R101, R102): for the default FIELD_POLY the printed tables, for any other the
tables that the rules regenerate. `Laws/Field.lean` proves that the two agree, so this is `buildRom` (log 12). -/
def romOf (fieldPoly : BitVec 9) : Rom :=
  if fieldPoly = 0x187 then printedRom else buildRom fieldPoly

/-! ## The conditions on the parameters -/

/-- The parameters of a machine are legal (00_scope R7, R8, 20_memory R61, 40_gf_arith R100). The default FIELD_POLY is
accepted at once: `Laws/Field.lean` proves it primitive, so the test is the same for every FIELD_POLY. -/
def configOk (cfg : Config) : Bool :=
  decide (64 ≤ cfg.chkCap) && decide (cfg.chkCap ≤ 65535) && cfg.rsBase % 0x800 == 0 &&
    (cfg.fieldPoly == 0x187 || isPrimitive cfg.fieldPoly)

end Sys2Proof.Machine
end

