-- ==== Sys2Proof/Syntax.lean ====
section
/-! DEFINITION. The instructions of the block: one constructor for each row of spec/opcode_table.json. -/

namespace Sys2Proof

/-- The operations a host can issue (30_encoding R80): the 18 commands of R83 and the 7 port and register writes of R87.
A port write carries its whole data word, because an error records `data[15:0]` (60_exceptions R243, log 9). -/
inductive Instr where
  | nop
  | softReset
  | clrStatus (mask : BitVec 3)
  | encInit (pad : Byte)
  | encFinish
  | encBlock (pad : Byte)
  | gfAdd
  | gfMul
  | gfDiv
  | gfInv
  | gfExp
  | gfLog
  | gfMac
  | gfHorner
  | synCalc (pad : Byte)
  | decCorrect (pad : Byte)
  | chkInit
  | chkSetmax (size : BitVec 16)
  | wrCtrl (data : Word)
  | encData (data : Word)
  | wrGfA (data : Word)
  | wrGfB (data : Word)
  | wrGfR (data : Word)
  | chkData (data : Word)
  | wrCw (k : Byte) (data : Word)
deriving DecidableEq, Repr

end Sys2Proof
end

