-- ==== Sys2Proof/WellFormed.lean ====
section
/-! DEFINITION. The well-formed instructions: those that the encoding can hold (30_encoding R81, R87). -/

namespace Sys2Proof

/-- The one bound the types do not state: `CW[k]` exists for `0 <= k <= 254`, and offset 0x7FC is unmapped
(10_state R22, 30_encoding R87). Every pad, mask and size that fits its field is an instruction: a pad above 223 or a
size above CHK_CAP raises an error when it runs (30_encoding R82). -/
def Instr.wf : Instr → Bool
  | .nop => true
  | .softReset => true
  | .clrStatus _ => true
  | .encInit _ => true
  | .encFinish => true
  | .encBlock _ => true
  | .gfAdd => true
  | .gfMul => true
  | .gfDiv => true
  | .gfInv => true
  | .gfExp => true
  | .gfLog => true
  | .gfMac => true
  | .gfHorner => true
  | .synCalc _ => true
  | .decCorrect _ => true
  | .chkInit => true
  | .chkSetmax _ => true
  | .wrCtrl _ => true
  | .encData _ => true
  | .wrGfA _ => true
  | .wrGfB _ => true
  | .wrGfR _ => true
  | .chkData _ => true
  | .wrCw k _ => k != 255

/-- The instructions of the checksum validator, absent when HAS_CHK = 0 (10_state R53). -/
def Instr.needsChk : Instr → Bool
  | .nop => false
  | .softReset => false
  | .clrStatus _ => false
  | .encInit _ => false
  | .encFinish => false
  | .encBlock _ => false
  | .gfAdd => false
  | .gfMul => false
  | .gfDiv => false
  | .gfInv => false
  | .gfExp => false
  | .gfLog => false
  | .gfMac => false
  | .gfHorner => false
  | .synCalc _ => false
  | .decCorrect _ => false
  | .chkInit => true
  | .chkSetmax _ => true
  | .wrCtrl _ => false
  | .encData _ => false
  | .wrGfA _ => false
  | .wrGfB _ => false
  | .wrGfR _ => false
  | .chkData _ => true
  | .wrCw _ _ => false

end Sys2Proof
end

