-- ==== Sys2Proof/Decode.lean ====
section
/-! DEFINITION. From bus writes to instructions and back: the register map (10_state R22), the decoder, total on every
write of every size, offset and data word (30_encoding R91), the encoder, and the words of spec/opcode_table.json. -/

namespace Sys2Proof

/-! ## The register map -/

/-- The registers at the word-aligned offsets below 0x080 (10_state R22). Those from 0x040 to 0x058 are unmapped when
HAS_CHK = 0 (R53). -/
def regBelow080 (hasChk : Bool) : Nat → Option Reg
  | 0x000 => some .id
  | 0x004 => some .param0
  | 0x008 => some .param1
  | 0x00C => some .chkCapr
  | 0x010 => some .ctrl
  | 0x014 => some .cmd
  | 0x018 => some .status
  | 0x01C => some .errInfo
  | 0x020 => some .encData
  | 0x024 => some .encPad
  | 0x028 => some .encCount
  | 0x02C => some .gfA
  | 0x030 => some .gfB
  | 0x034 => some .gfR
  | 0x038 => some .decNerr
  | 0x040 => if hasChk then some .chkData else none
  | 0x044 => if hasChk then some .chkMax else none
  | 0x048 => if hasChk then some .chkSum else none
  | 0x04C => if hasChk then some .chkId else none
  | 0x050 => if hasChk then some .chkLen else none
  | 0x054 => if hasChk then some .chkCount else none
  | 0x058 => if hasChk then some .chkTrailer else none
  | _ => none

/-- The register at an offset, none where the offset is not word-aligned (20_memory R62) or unmapped
(10_state R21, R22). -/
def regAt (hasChk : Bool) (off : Offset) : Option Reg :=
  let n := off.toNat
  if n % 4 ≠ 0 then none
  else if n < 0x080 then regBelow080 hasChk n
  else if n < 0x100 then some (.parity (Fin.ofNat 32 ((n - 0x080) / 4)))
  else if n < 0x180 then some (.syn (Fin.ofNat 32 ((n - 0x100) / 4)))
  else if n < 0x1C0 then some (.errLoc (Fin.ofNat 16 ((n - 0x180) / 4)))
  else if n < 0x400 then none
  else if n < 0x7FC then some (.cw (BitVec.ofNat 8 ((n - 0x400) / 4)))
  else none

/-- The access type of a register (10_state R22). -/
def Reg.access : Reg → Access
  | .id => .ro
  | .param0 => .ro
  | .param1 => .ro
  | .chkCapr => .ro
  | .ctrl => .rw
  | .cmd => .wo
  | .status => .ro
  | .errInfo => .ro
  | .encData => .wo
  | .encPad => .ro
  | .encCount => .ro
  | .gfA => .rw
  | .gfB => .rw
  | .gfR => .rw
  | .decNerr => .ro
  | .chkData => .wo
  | .chkMax => .ro
  | .chkSum => .ro
  | .chkId => .ro
  | .chkLen => .ro
  | .chkCount => .ro
  | .chkTrailer => .ro
  | .parity _ => .ro
  | .syn _ => .ro
  | .errLoc _ => .ro
  | .cw _ => .rw

/-- The offset of CW[k], `0x400 + 4*k` (10_state R22). -/
def cwOffset (k : Byte) : Offset := (1#1 ++ k) ++ 0#2

/-! ## The command word (30_encoding R81) -/

/-- OPC, bits [7:0]. -/
def opcOf (w : Word) : Byte := w.extractLsb' 0 8

/-- ARGA, bits [15:8]. -/
def argAOf (w : Word) : Byte := w.extractLsb' 8 8

/-- ARGB, bits [31:16]. -/
def argBOf (w : Word) : BitVec 16 := w.extractLsb' 16 16

/-- The command word with the given fields, ARGB highest. -/
def cmdWord (opc argA : Byte) (argB : BitVec 16) : Word := (argB ++ argA) ++ opc

/-! ## The decoder -/

/-- A command whose two argument fields must be 0 (30_encoding R84). -/
def plainCmd (w : Word) (i : Instr) : Except Reject Instr :=
  if argAOf w = 0 ∧ argBOf w = 0 then .ok i else .error .rsvdArg

/-- A command that uses ARGA, its pad, and whose ARGB must be 0 (30_encoding R84). -/
def padCmd (w : Word) (i : Byte → Instr) : Except Reject Instr :=
  if argBOf w = 0 then .ok (i (argAOf w)) else .error .rsvdArg

/-- CLR_STATUS: the mask is ARGA[2:0], and ARGA[7:3] and ARGB must be 0 (30_encoding R82, R84). -/
def clrStatusCmd (w : Word) : Except Reject Instr :=
  if (argAOf w).extractLsb' 3 5 = 0 ∧ argBOf w = 0 then .ok (.clrStatus ((argAOf w).setWidth 3)) else .error .rsvdArg

/-- CHK_SETMAX: the size is ARGB, and ARGA must be 0 (30_encoding R82, R84). -/
def chkSetmaxCmd (w : Word) : Except Reject Instr :=
  if argAOf w = 0 then .ok (.chkSetmax (argBOf w)) else .error .rsvdArg

/-- A command word: first the opcode, then the required-zero fields (30_encoding R83 to R85, 60_exceptions R244 step 5).
The opcodes 0x40 and 0x41 are illegal when HAS_CHK = 0. -/
def decodeCommand (hasChk : Bool) (w : Word) : Except Reject Instr :=
  match (opcOf w).toNat with
  | 0x00 => plainCmd w .nop
  | 0x01 => plainCmd w .softReset
  | 0x02 => clrStatusCmd w
  | 0x10 => padCmd w .encInit
  | 0x11 => plainCmd w .encFinish
  | 0x12 => padCmd w .encBlock
  | 0x20 => plainCmd w .gfAdd
  | 0x21 => plainCmd w .gfMul
  | 0x22 => plainCmd w .gfDiv
  | 0x23 => plainCmd w .gfInv
  | 0x24 => plainCmd w .gfExp
  | 0x25 => plainCmd w .gfLog
  | 0x26 => plainCmd w .gfMac
  | 0x27 => plainCmd w .gfHorner
  | 0x30 => padCmd w .synCalc
  | 0x31 => padCmd w .decCorrect
  | 0x40 => if hasChk then plainCmd w .chkInit else .error .badOpcode
  | 0x41 => if hasChk then chkSetmaxCmd w else .error .badOpcode
  | _ => .error .badOpcode

/-- A legal-size write to a mapped register: the write-dispatch table of 44_control R219, with ACCESS for the read-only
registers (20_memory R64). -/
def decodeAt (hasChk : Bool) (r : Reg) (data : Word) : Except Reject Instr :=
  match r with
  | .id => .error .access
  | .param0 => .error .access
  | .param1 => .error .access
  | .chkCapr => .error .access
  | .ctrl => .ok (.wrCtrl data)
  | .cmd => decodeCommand hasChk data
  | .status => .error .access
  | .errInfo => .error .access
  | .encData => .ok (.encData data)
  | .encPad => .error .access
  | .encCount => .error .access
  | .gfA => .ok (.wrGfA data)
  | .gfB => .ok (.wrGfB data)
  | .gfR => .ok (.wrGfR data)
  | .decNerr => .error .access
  | .chkData => .ok (.chkData data)
  | .chkMax => .error .access
  | .chkSum => .error .access
  | .chkId => .error .access
  | .chkLen => .error .access
  | .chkCount => .error .access
  | .chkTrailer => .error .access
  | .parity _ => .error .access
  | .syn _ => .error .access
  | .errLoc _ => .error .access
  | .cw k => .ok (.wrCw k data)

/-- The instruction that a bus write is, or why it is none (20_memory R62, R64, 30_encoding R91). The checks here are
those that do not depend on the block's state; the BUSY check of 60_exceptions R244 step 4 is made when it runs. -/
def decodeWrite (hasChk : Bool) (a : BusWrite) : Except Reject Instr :=
  match a.size with
  | .one => .error .access
  | .two => .error .access
  | .four =>
    match regAt hasChk a.off with
    | none => .error .access
    | some r => decodeAt hasChk r a.data

/-! ## The encoder -/

/-- The offset of CMD (10_state R22). -/
abbrev cmdOffset : Offset := 0x014

/-- The bus write that issues a command word. -/
def commandWrite (w : Word) : BusWrite := { off := cmdOffset, size := .four, data := w }

/-- The bus write to a port or register. -/
def portWrite (off : Offset) (data : Word) : BusWrite := { off := off, size := .four, data := data }

/-- The write that an instruction is (30_encoding R81, R83, R87). -/
def encode : Instr → BusWrite
  | .nop => commandWrite (cmdWord 0x00 0 0)
  | .softReset => commandWrite (cmdWord 0x01 0 0)
  | .clrStatus mask => commandWrite (cmdWord 0x02 (mask.setWidth 8) 0)
  | .encInit pad => commandWrite (cmdWord 0x10 pad 0)
  | .encFinish => commandWrite (cmdWord 0x11 0 0)
  | .encBlock pad => commandWrite (cmdWord 0x12 pad 0)
  | .gfAdd => commandWrite (cmdWord 0x20 0 0)
  | .gfMul => commandWrite (cmdWord 0x21 0 0)
  | .gfDiv => commandWrite (cmdWord 0x22 0 0)
  | .gfInv => commandWrite (cmdWord 0x23 0 0)
  | .gfExp => commandWrite (cmdWord 0x24 0 0)
  | .gfLog => commandWrite (cmdWord 0x25 0 0)
  | .gfMac => commandWrite (cmdWord 0x26 0 0)
  | .gfHorner => commandWrite (cmdWord 0x27 0 0)
  | .synCalc pad => commandWrite (cmdWord 0x30 pad 0)
  | .decCorrect pad => commandWrite (cmdWord 0x31 pad 0)
  | .chkInit => commandWrite (cmdWord 0x40 0 0)
  | .chkSetmax size => commandWrite (cmdWord 0x41 0 size)
  | .wrCtrl data => portWrite 0x010 data
  | .encData data => portWrite 0x020 data
  | .wrGfA data => portWrite 0x02C data
  | .wrGfB data => portWrite 0x030 data
  | .wrGfR data => portWrite 0x034 data
  | .chkData data => portWrite 0x040 data
  | .wrCw k data => portWrite (cwOffset k) data

/-! ## The words of spec/opcode_table.json -/

/-- A register that a PORT row of the table writes: any writable one but CMD (30_encoding R87). -/
def isPort : Option Reg → Bool
  | none => false
  | some r => r.access != .ro && r != .cmd

/-- The table's two formats share their low numbers, so the number of bits tells them apart (log 2): a word of at most
16 bits that is the offset of a port is a PORT row (11 offset bits), with a data word of zeros; any other word is a CMD
row's command word. -/
def tableWrite (nbits w : Nat) : BusWrite :=
  if nbits ≤ 16 ∧ w < 0x800 ∧ isPort (regAt true (BitVec.ofNat 11 w)) then portWrite (BitVec.ofNat 11 w) 0
  else commandWrite (BitVec.ofNat 32 w)

/-- The instruction of a word of the opcode table, under the default HAS_CHK = 1. -/
def decodeTableWord (nbits w : Nat) : Option Instr :=
  match decodeWrite Config.default.hasChk (tableWrite nbits w) with
  | .ok i => some i
  | .error _ => none

end Sys2Proof
end

