-- ==== Sys2Proof/Machine/State.lean ====
section
/-! DEFINITION. The state of the block (10_state R20), as plain data, with the parameters of the machine and the turns
of the agents to come; the reasons a step can stop; and the state right after power-up reset (10_state R54). -/

namespace Sys2Proof.Machine

/-- The error codes of STATUS.ERRCODE (60_exceptions R242). -/
inductive ErrCode where
  | none
  | badOpcode
  | rsvdArg
  | badPad
  | notActive
  | length
  | busy
  | access
  | div0
  | size
deriving DecidableEq, Repr

/-- The results of STATUS.CHK_RES (10_state R30). -/
inductive ChkRes where
  | none
  | pass
  | checksumFailure
  | sizeExceeded
deriving DecidableEq, Repr

/-- The fields of STATUS but IRQ, which is the level of `State.irq` (10_state R30). -/
structure Status where
  busy         : Bool
  done         : Bool
  err          : Bool
  encActive    : Bool
  pvalid       : Bool
  synZero      : Bool
  decFail      : Bool
  chkActive    : Bool
  chkRes       : ChkRes
  chkEchoMatch : Bool
  errCode      : ErrCode
deriving DecidableEq, Repr

/-- A pending job with its pad (10_state R50). -/
inductive Job where
  | encBlock (pad : Byte)
  | synCalc (pad : Byte)
  | decCorrect (pad : Byte)
deriving DecidableEq, Repr

/-- The codeword buffer CW: the bytes written since power-up, by index, indices strictly rising (`Memory.wf`). A byte
that is not listed was never written (log 5). -/
structure Memory where
  cells : List Host.Cell
deriving DecidableEq, Repr

/-- One turn of one agent (00_scope R11): a host write or read at a bus address, the engine, the reset input, or a
power-up with its reset (70_reset R270, R271). -/
inductive Turn where
  | write (addr : Nat) (size : Size) (data : Word)
  | read (addr : Nat) (size : Size)
  | engine
  | reset
  | powerUp
deriving DecidableEq, Repr

/-- The state of the block (10_state R20), then the model's own fields `agenda`, `rdata`, `draws` and `powerUps`. -/
structure State where
  /-- The parameters (00_scope R7); the ROM and the identification registers are functions of them. -/
  cfg        : Config
  /-- CTRL (10_state R28): bit 0 IE_DONE, bit 1 IE_ERR, bit 2 IE_CHK. -/
  ctrl       : BitVec 3
  /-- STATUS (10_state R30). -/
  status     : Status
  /-- ERRINFO (10_state R32). -/
  errInfo    : Word
  /-- ENC_PAD (10_state R34). -/
  encPad     : Byte
  /-- ENC_COUNT (10_state R35). -/
  encCount   : Byte
  /-- PARITY[0..31] (10_state R46). -/
  parity     : Vector Byte 32
  /-- GF_A (10_state R36). -/
  gfA        : Byte
  /-- GF_B (10_state R36). -/
  gfB        : Byte
  /-- GF_R (10_state R37). -/
  gfR        : Byte
  /-- SYN[0..31] (10_state R47). -/
  syn        : Vector Byte 32
  /-- DEC_NERR (10_state R38). -/
  decNerr    : BitVec 5
  /-- ERRLOC[0..15] (10_state R48). -/
  errLoc     : Vector Byte 16
  /-- CHK_MAX (10_state R40). -/
  chkMax     : BitVec 16
  /-- CHK_SUM (10_state R41). -/
  chkSum     : Byte
  /-- CHK_ID (10_state R42). -/
  chkId      : BitVec 16
  /-- CHK_LEN (10_state R43). -/
  chkLen     : BitVec 16
  /-- CHK_COUNT (10_state R44). -/
  chkCount   : BitVec 17
  /-- CHK_TRAILER (10_state R45). -/
  chkTrailer : BitVec 16
  /-- CW[0..254] (10_state R49). -/
  cw         : Memory
  /-- JOB (10_state R50). -/
  job        : Option Job
  /-- The interrupt output (10_state R20, 60_exceptions R245). -/
  irq        : Bool
  /-- The model's own: the turns to come, the next one first (log 1). -/
  agenda     : List Turn
  /-- The model's own: the word the last bus read returned (log 7). -/
  rdata      : Option Word
  /-- The model's own: how many free values reads while BUSY have drawn (log 6). -/
  draws      : Nat
  /-- The model's own: how many power-ups came before this one; selects the free contents of CW (log 5). -/
  powerUps   : Nat
deriving DecidableEq, Repr

/-- Why the machine stops with a fault. No instruction raises one (93_implementation_defined I18). -/
inductive Fault where
  /-- Raised by a host turn whose address is outside `[RS_BASE, RS_BASE + 0x7FF]`, which the platform never routes to
  the block (20_memory R61). Safe: the block never sees such an access (log 10). -/
  | outsideWindow
deriving DecidableEq, Repr

/-- Why the model gives a step no meaning. -/
inductive Refusal where
  /-- Raised by an arm of `exec` whose instruction has no meaning yet. No arm does. Safe. -/
  | notModelled (mnemonic : String)
  /-- Raised by `step` when the parameters break a condition: those of 00_scope R8 ("A model instantiated with values that
  break any of these is refused") and 40_gf_arith R100 by the spec, those of 00_scope R7 and 20_memory R61 by the model's
  choice (log 3). Safe. -/
  | badConfig
deriving DecidableEq, Repr

/-- What a step or the meaning of an instruction answers. -/
abbrev Result := Host.Outcome State Fault Refusal

/-- STATUS after reset: every field 0 (10_state R54). -/
def Status.reset : Status where
  busy         := false
  done         := false
  err          := false
  encActive    := false
  pvalid       := false
  synZero      := false
  decFail      := false
  chkActive    := false
  chkRes       := .none
  chkEchoMatch := false
  errCode      := .none

/-- The machine right after its first power-up reset: every register at the value of 10_state R54, and CW unspecified,
no byte of it listed. The parameters are `Config.default` (log 3), and the model's own fields are empty (logs 1, 5, 6
and 7, DESIGN CHOICE). -/
def State.reset : State where
  cfg        := Config.default
  ctrl       := 0
  status     := Status.reset
  errInfo    := 0
  encPad     := 0
  encCount   := 0
  parity     := Vector.replicate 32 0
  gfA        := 0
  gfB        := 0
  gfR        := 0
  syn        := Vector.replicate 32 0
  decNerr    := 0
  errLoc     := Vector.replicate 16 0
  chkMax     := Config.chkDefaultMax
  chkSum     := 0
  chkId      := 0
  chkLen     := 0
  chkCount   := 0
  chkTrailer := 0
  cw         := { cells := [] }
  job        := none
  irq        := false
  agenda     := []
  rdata      := none
  draws      := 0
  powerUps   := 0

end Sys2Proof.Machine
end

