-- ==== Sys2Proof/Machine/Flags.lean ====
section
/-! DEFINITION. The status word, the interrupt level, and the formats of ERRINFO (44_control R218, 60_exceptions R242,
R243, R245). -/

namespace Sys2Proof.Machine

/-- The number of an error code (60_exceptions R242). -/
def ErrCode.code : ErrCode → Byte
  | .none => 0x00
  | .badOpcode => 0x01
  | .rsvdArg => 0x02
  | .badPad => 0x03
  | .notActive => 0x04
  | .length => 0x05
  | .busy => 0x06
  | .access => 0x07
  | .div0 => 0x08
  | .size => 0x09

/-- The number of a package result (10_state R30). -/
def ChkRes.code : ChkRes → BitVec 2
  | .none => 0
  | .pass => 1
  | .checksumFailure => 2
  | .sizeExceeded => 3

/-- CTRL.IE_DONE (10_state R28). -/
def ieDone (ctrl : BitVec 3) : Bool := ctrl.getLsbD 0

/-- CTRL.IE_ERR (10_state R28). -/
def ieErr (ctrl : BitVec 3) : Bool := ctrl.getLsbD 1

/-- CTRL.IE_CHK (10_state R28). -/
def ieChk (ctrl : BitVec 3) : Bool := ctrl.getLsbD 2

/-- The formula of the interrupt output (60_exceptions R245). -/
def irqLevel (ctrl : BitVec 3) (st : Status) : Bool :=
  ieDone ctrl && st.done || ieErr ctrl && st.err || ieChk ctrl && st.chkRes != .none

/-- Bits [10:0] of STATUS but for their order: the flags, bit 0 last (44_control R218). Bits [10:7] read 0 when
HAS_CHK = 0 (10_state R53). -/
def statusFlags (hasChk : Bool) (st : Status) : BitVec 11 :=
  let chk : BitVec 4 :=
    if hasChk then (BitVec.ofBool st.chkEchoMatch ++ st.chkRes.code) ++ BitVec.ofBool st.chkActive else 0
  ((((((chk ++ BitVec.ofBool st.decFail) ++ BitVec.ofBool st.synZero) ++ BitVec.ofBool st.pvalid)
    ++ BitVec.ofBool st.encActive) ++ BitVec.ofBool st.err) ++ BitVec.ofBool st.done) ++ BitVec.ofBool st.busy

/-- What a read of STATUS returns (44_control R218). -/
def statusWord (hasChk : Bool) (st : Status) (irq : Bool) : Word :=
  (((0#8 ++ st.errCode.code) ++ 0#4) ++ BitVec.ofBool irq) ++ statusFlags hasChk st

/-- The access-class information word `{1, 0000, off[10:0], data[15:0]}` (60_exceptions R243). -/
def accessInfo (a : BusWrite) : Word := ((1#1 ++ 0#4) ++ a.off) ++ a.data.extractLsb' 0 16

/-- The command-class information word, the command word itself (60_exceptions R243). -/
def commandInfo (a : BusWrite) : Word := a.data

end Sys2Proof.Machine
end

