-- ==== Sys2Proof/Machine/Operands.lean ====
section
/-! DEFINITION. The operand forms (30_encoding R82) and the operand range checks. -/

namespace Sys2Proof.Machine

/-- The byte operand of a port write: `data[7:0]`; `data[31:8]` is ignored. -/
def byteOperand (data : Word) : Byte := data.extractLsb' 0 8

/-- The operand of WR_CTRL: `data[2:0]`; `data[31:3]` is ignored. -/
def ctrlOperand (data : Word) : BitVec 3 := data.extractLsb' 0 3

/-- The range of pad: `pad <= KMAX` (41_encoder R140). -/
def padInRange (pad : Byte) : Bool := decide (pad.toNat ≤ Config.kmax)

/-- The length of the message with shortening pad, `KMAX - pad` (41_encoder R140). -/
def messageLength (pad : Byte) : Nat := Config.kmax - pad.toNat

/-- The range of size: `size <= CHK_CAP` (43_checksum R198). -/
def sizeInRange (cfg : Config) (size : BitVec 16) : Bool := decide (size.toNat ≤ cfg.chkCap)

/-- A 16-bit register with its low byte replaced, the earlier byte of a little-endian pair (20_memory R69). -/
def setLowByte (v : BitVec 16) (d : Byte) : BitVec 16 := v.extractLsb' 8 8 ++ d

/-- A 16-bit register with its high byte replaced (20_memory R69). -/
def setHighByte (v : BitVec 16) (d : Byte) : BitVec 16 := d ++ v.extractLsb' 0 8

end Sys2Proof.Machine
end

