-- ==== Sys2Proof/Machine/Ops.lean ====
section
/-! DEFINITION. The operations that the meanings share: the codeword buffer, the interrupt output, taking an error and
returning from it, the busy rule, starting a job, and the reset of the registers. -/

namespace Sys2Proof.Machine

/-! ## The codeword buffer (10_state R49, 70_reset R271) -/

/-- The byte listed at an index. -/
def readCells : List Host.Cell → Nat → Option Byte
  | [], _ => none
  | (a, b) :: cells, k => if a = k then some b else readCells cells k

/-- The cells with a byte listed at an index, in rising order. -/
def writeCells : List Host.Cell → Nat → Byte → List Host.Cell
  | [], k, v => [(k, v)]
  | (a, b) :: cells, k, v =>
    if k < a then (k, v) :: (a, b) :: cells
    else if k = a then (k, v) :: cells
    else (a, b) :: writeCells cells k v

/-- The byte written at an index since power-up, if any. -/
def Memory.read (m : Memory) (k : Nat) : Option Byte := readCells m.cells k

/-- The buffer after a byte is written. -/
def Memory.write (m : Memory) (k : Nat) (v : Byte) : Memory := { cells := writeCells m.cells k v }

/-- The buffer after several bytes are written, the first one first. -/
def Memory.writeAll (m : Memory) (bytes : List (Nat × Byte)) : Memory :=
  bytes.foldl (fun m kv => m.write kv.1 kv.2) m

/-- The canonical form: indices strictly rising, each below 255. An unlisted index has no value of its own, so no listed
byte can equal it (log 5). -/
abbrev Memory.wf (m : Memory) : Prop :=
  m.cells.Pairwise (fun a b => a.1 < b.1) ∧ ∀ c ∈ m.cells, c.1 < Config.nn

/-- The byte CW[k]: the one written last, or the FREE VALUE that the buffer holds since power-up (70_reset R271,
log 5). -/
def State.cwByte (s : State) (k : Nat) : Byte := (s.cw.read k).getD (Config.powerUpByte s.powerUps k)

/-- The contents of the ROM (10_state R51). -/
def State.rom (s : State) : Rom := romOf s.cfg.fieldPoly

/-! ## The interrupt output (60_exceptions R245) -/

/-- irq takes the value of the formula. -/
def State.settleIrq (s : State) : State := { s with irq := irqLevel s.ctrl s.status }

/-- The end of every step: irq is recomputed for the new state (44_control R219, 60_exceptions R245). -/
def complete (s : State) : Result := .next s.settleIrq

/-! ## Errors: the block's exceptions (60_exceptions R240, R241, R247) -/

/-- The capture of an error: only the first one since ERR was last clear is recorded (60_exceptions R241). -/
def State.capture (s : State) (code : ErrCode) (info : Word) : State :=
  if s.status.err then s
  else { s with status := { s.status with err := true, errCode := code }, errInfo := info }

/-- Taking an exception: `raise Error(code, info)`. The write is dropped (60_exceptions R240, R241). -/
def raiseError (code : ErrCode) (info : Word) (s : State) : Result := complete (s.capture code info)

/-- The return from an exception: ERR, ERRCODE and ERRINFO are cleared (60_exceptions R247, 44_control R212). -/
def State.clearError (s : State) : State :=
  { s with status := { s.status with err := false, errCode := .none }, errInfo := 0 }

/-- The busy rule: while BUSY a write is rejected, with access-class information (60_exceptions R244 step 4, R251). -/
def unlessBusy (a : BusWrite) (s : State) (r : Result) : Result :=
  if s.status.busy then raiseError .busy (accessInfo a) s else r

/-! ## Jobs (60_exceptions R250) -/

/-- A job is pending: BUSY is set and DONE is cleared (41_encoder R147, 42_syndrome_decoder R162, R165). -/
def State.startJob (s : State) (job : Job) : State :=
  { s with job := some job, status := { s.status with busy := true, done := false } }

/-- The end of a job: JOB is NONE, BUSY is cleared and DONE is set (41_encoder R148, 42_syndrome_decoder R163, R166). -/
def State.endJob (s : State) : State :=
  { s with job := none, status := { s.status with busy := false, done := true } }

/-! ## Reset (10_state R54) -/

/-- Every register, JOB and irq at its reset value; CW, the parameters and the model's own fields are kept. -/
def State.resetRegisters (s : State) : State :=
  { State.reset with
    cfg := s.cfg, cw := s.cw, agenda := s.agenda, rdata := s.rdata, draws := s.draws, powerUps := s.powerUps }

end Sys2Proof.Machine
end

