-- ==== Sys2Proof/Machine/Checksum.lean ====
section
/-! DEFINITION. The Data Package checksum validator (43_checksum R190 to R199). When HAS_CHK = 0 the decoder yields none
of these instructions, and their meanings answer what 10_state R53 says of their words (log 9). -/

namespace Sys2Proof.Machine

/-- A validator command when HAS_CHK = 0: BAD_OPCODE (10_state R53, 30_encoding R85). -/
def withChkCommand (a : BusWrite) (s : State) (r : Result) : Result :=
  if s.cfg.hasChk then r else raiseError .badOpcode (commandInfo a) s

/-- CHK_INIT (43_checksum R192). -/
def execChkInit (s : State) : Result :=
  unlessBusy (encode .chkInit) s
    (withChkCommand (encode .chkInit) s
      (complete { s with
        chkCount := 0, chkSum := 0, chkId := 0, chkLen := 0, chkTrailer := 0,
        status := { s.status with chkActive := true, chkRes := .none, chkEchoMatch := false } }))

/-- CHK_SETMAX (43_checksum R198). -/
def execChkSetmax (size : BitVec 16) (s : State) : Result :=
  unlessBusy (encode (.chkSetmax size)) s
    (withChkCommand (encode (.chkSetmax size)) s
      (if sizeInRange s.cfg size then complete { s with chkMax := size }
       else raiseError .size (commandInfo (encode (.chkSetmax size))) s))

/-- The size guard, after the fourth header byte (43_checksum R194). -/
def State.sizeGuard (s : State) : State :=
  if 4 + s.chkLen.toNat + 2 > s.chkMax.toNat then
    { s with status := { s.status with chkRes := .sizeExceeded, chkActive := false } }
  else s

/-- Whether the package passes: the sum equals the checksum byte, or the mode is SELF (43_checksum R196, R199). -/
def packagePasses (mode : CompareMode) (sum checksum : Byte) : Bool :=
  match mode with
  | .sum => sum == checksum
  | .self => true

/-- The verdict, after the checksumEcho byte (43_checksum R196). -/
def State.verdict (s : State) : State :=
  let chk := s.chkTrailer.extractLsb' 0 8
  let echo := s.chkTrailer.extractLsb' 8 8
  { s with status := { s.status with
      chkEchoMatch := echo == chk,
      chkRes := if packagePasses s.cfg.compareMode s.chkSum chk then .pass else .checksumFailure,
      chkActive := false } }

/-- A header or payload byte is added to the running sum, modulo 256 (43_checksum R193). -/
def State.addSum (s : State) (d : Byte) : State := { s with chkSum := s.chkSum + d }

/-- What the byte at position n does, before CHK_COUNT advances (43_checksum R193). A position past the package belongs
to no state that a run reaches, and has no effect (log 11). -/
def State.parseByte (s : State) (n : Nat) (d : Byte) : State :=
  if n = 0 then { s with chkId := setLowByte s.chkId d }.addSum d
  else if n = 1 then { s with chkId := setHighByte s.chkId d }.addSum d
  else if n = 2 then { s with chkLen := setLowByte s.chkLen d }.addSum d
  else if n = 3 then ({ s with chkLen := setHighByte s.chkLen d }.addSum d).sizeGuard
  else if n < 4 + s.chkLen.toNat then s.addSum d
  else if n = 4 + s.chkLen.toNat then { s with chkTrailer := setLowByte s.chkTrailer d }
  else if n = 5 + s.chkLen.toNat then { s with chkTrailer := setHighByte s.chkTrailer d }.verdict
  else s

/-- A package byte is accepted (43_checksum R193). -/
def State.feedPackage (s : State) (d : Byte) : State :=
  let t := s.parseByte s.chkCount.toNat d
  { t with chkCount := s.chkCount + 1 }

/-- CHK_DATA (43_checksum R193, R197). -/
def execChkData (data : Word) (s : State) : Result :=
  if s.cfg.hasChk then
    unlessBusy (encode (.chkData data)) s
      (if s.status.chkActive then complete (s.feedPackage (byteOperand data))
       else raiseError .notActive (accessInfo (encode (.chkData data))) s)
  else raiseError .access (accessInfo (encode (.chkData data))) s

end Sys2Proof.Machine
end

