-- ==== Sys2Proof/Machine/Control.lean ====
section
/-! DEFINITION. The control commands and the register writes (44_control R210 to R215). -/

namespace Sys2Proof.Machine

/-- NOP (44_control R210). -/
def execNop (s : State) : Result := unlessBusy (encode .nop) s (complete s)

/-- SOFT_RESET, accepted while BUSY (44_control R211, 60_exceptions R244 step 3). -/
def execSoftReset (s : State) : Result := complete s.resetRegisters

/-- Clearing DONE (44_control R212, mask bit 0). -/
def State.clearDone (s : State) : State := { s with status := { s.status with done := false } }

/-- Clearing the package result (44_control R212, mask bit 2): no effect when HAS_CHK = 0. -/
def State.clearCheck (s : State) : State :=
  if s.cfg.hasChk then { s with status := { s.status with chkRes := .none, chkEchoMatch := false } } else s

/-- The effect of CLR_STATUS, mask bit by mask bit (44_control R212). -/
def State.clearStatus (s : State) (mask : BitVec 3) : State :=
  let s := if mask.getLsbD 0 then s.clearDone else s
  let s := if mask.getLsbD 1 then s.clearError else s
  if mask.getLsbD 2 then s.clearCheck else s

/-- CLR_STATUS (44_control R212). -/
def execClrStatus (mask : BitVec 3) (s : State) : Result :=
  unlessBusy (encode (.clrStatus mask)) s (complete (s.clearStatus mask))

/-- What CTRL stores: bit 2 is forced to 0 when HAS_CHK = 0 (10_state R28, 44_control R213). -/
def storedCtrl (hasChk : Bool) (data : Word) : BitVec 3 :=
  if hasChk then ctrlOperand data else ctrlOperand data &&& 0b011

/-- WR_CTRL (44_control R213). -/
def execWrCtrl (data : Word) (s : State) : Result :=
  unlessBusy (encode (.wrCtrl data)) s (complete { s with ctrl := storedCtrl s.cfg.hasChk data })

/-- WR_GF_A (44_control R214). -/
def execWrGfA (data : Word) (s : State) : Result :=
  unlessBusy (encode (.wrGfA data)) s (complete { s with gfA := byteOperand data })

/-- WR_GF_B (44_control R214). -/
def execWrGfB (data : Word) (s : State) : Result :=
  unlessBusy (encode (.wrGfB data)) s (complete { s with gfB := byteOperand data })

/-- WR_GF_R (44_control R214). -/
def execWrGfR (data : Word) (s : State) : Result :=
  unlessBusy (encode (.wrGfR data)) s (complete { s with gfR := byteOperand data })

/-- WR_CW (44_control R215). The index 255 is no instruction, its offset 0x7FC is unmapped: ACCESS, as for every write
there (20_memory R64, log 9). -/
def execWrCw (k : Byte) (data : Word) (s : State) : Result :=
  if k = 255 then raiseError .access (accessInfo (encode (.wrCw k data))) s
  else unlessBusy (encode (.wrCw k data)) s (complete { s with cw := s.cw.write k.toNat (byteOperand data) })

end Sys2Proof.Machine
end

