-- ==== Sys2Proof/Machine/Decoder.lean ====
section
/-! DEFINITION. The syndrome calculator and the corrector (42_syndrome_decoder R160 to R170). A received word is the list
of the bytes `CW[pad..254]`, in index order. -/

namespace Sys2Proof.Machine

/-! ## Syndromes -/

/-- The bytes `CW[pad..254]` (42_syndrome_decoder R166). -/
def State.receivedWord (s : State) (pad : Byte) : List Byte :=
  (List.range' pad.toNat (Config.nn - pad.toNat)).map s.cwByte

/-- The word as a polynomial, its first byte the highest coefficient, at z: the Horner form of 42_syndrome_decoder R161. -/
def horner (rom : Rom) (z : Byte) (word : List Byte) : Byte := word.foldl (fun acc c => gmul rom acc z ^^^ c) 0

/-- `S_i`, the syndrome at the root `r_i` (42_syndrome_decoder R161). -/
def syndrome (rom : Rom) (word : List Byte) (i : Nat) : Byte := horner rom (rootOf rom i) word

/-- `S_0 .. S_31`. -/
def syndromes (rom : Rom) (word : List Byte) : Vector Byte 32 := tabulate 32 (syndrome rom word)

/-- All 32 syndromes are zero: the word is in `C(pad)` (42_syndrome_decoder R164). -/
def allZero (syn : Vector Byte 32) : Bool := syn.toList.all (· == 0)

/-- `dist(u, v)`: how many positions differ (42_syndrome_decoder R164). -/
def distance (u v : List Byte) : Nat := ((u.zip v).filter fun p => p.1 != p.2).length

/-! ## The error-locator solver (42_syndrome_decoder R167) -/

/-- `Lambda(x)`, `B(x)` and `L` of Berlekamp-Massey. -/
structure Locator where
  lambda : List Byte
  b      : List Byte
  len    : Nat
deriving DecidableEq, Repr

/-- The discrepancy at step r: the sum over i = 0..L of `Lambda_i S_(r-1-i)`. -/
def discrepancy (rom : Rom) (syn : List Byte) (st : Locator) (r : Nat) : Byte :=
  (List.range (st.len + 1)).foldl (fun acc i => acc ^^^ gmul rom (st.lambda.getD i 0) (syn.getD (r - 1 - i) 0)) 0

/-- Step r of Berlekamp-Massey. -/
def berlekampStep (rom : Rom) (syn : List Byte) (st : Locator) (r : Nat) : Locator :=
  let delta := discrepancy rom syn st r
  if delta = 0 then { st with b := polyShift st.b }
  else
    let tmp := polyAdd st.lambda (polyScale rom delta (polyShift st.b))
    if 2 * st.len ≤ r - 1 then
      { lambda := tmp, b := polyScale rom (ginv rom delta) st.lambda, len := r - st.len }
    else { st with lambda := tmp, b := polyShift st.b }

/-- Berlekamp-Massey over r = 1..32. -/
def berlekampMassey (rom : Rom) (syn : List Byte) : Locator :=
  (List.range' 1 Config.nroots).foldl (berlekampStep rom syn) { lambda := [1], b := [1], len := 0 }

/-! ## The Chien search and the Forney evaluator (42_syndrome_decoder R160, R168) -/

/-- The locator `X(k)` of CW index k (42_syndrome_decoder R160). -/
def locatorOf (rom : Rom) (k : Nat) : Byte := rom.alphaMod (Config.prim * (254 - k))

/-- The Chien search: the positions k in 0..254 with `Lambda(X(k)^-1) = 0`, ascending. -/
def chienSearch (rom : Rom) (lambda : List Byte) : List Nat :=
  (List.range Config.nn).filter fun k => polyEval rom lambda (ginv rom (locatorOf rom k)) == 0

/-- `Omega(x) = (S(x) * Lambda(x)) mod x^32`. -/
def errorEvaluator (rom : Rom) (syn lambda : List Byte) : List Byte :=
  (List.range Config.nroots).map fun n =>
    (List.range (n + 1)).foldl (fun acc i => acc ^^^ gmul rom (lambda.getD i 0) (syn.getD (n - i) 0)) 0

/-- `Lambda'(z)`: the sum over odd i of `Lambda_i z^(i-1)`. -/
def derivativeAt (rom : Rom) (lambda : List Byte) (z : Byte) : Byte :=
  ((List.range lambda.length).filter (· % 2 == 1)).foldl
    (fun acc i => acc ^^^ gmul rom (lambda.getD i 0) (gpow rom z (i - 1))) 0

/-- Forney's error value at CW index k, none when its denominator is 0. The exponent of X is `mod255(1 - FCR) = 144`. -/
def forney (rom : Rom) (omega lambda : List Byte) (k : Nat) : Option Byte :=
  let x := locatorOf rom k
  let xi := ginv rom x
  let den := derivativeAt rom lambda xi
  if den = 0 then none
  else some (gdiv rom (gmul rom (gpow rom x (256 - Config.fcr)) (polyEval rom omega xi)) den)

/-- The error positions with their values, unless one of the failure checks (a) to (e) of 42_syndrome_decoder R169
holds. -/
def locateErrors (rom : Rom) (pad : Nat) (syn : List Byte) : Option (List (Nat × Byte)) :=
  let st := berlekampMassey rom syn
  let deg := polyDegree st.lambda
  let e := chienSearch rom st.lambda
  if deg > Config.t ∨ deg ≠ st.len ∨ e.length ≠ deg ∨ e.any (· < pad) then none
  else
    let values := e.map (forney rom (errorEvaluator rom syn st.lambda) st.lambda)
    if values.all (fun y => y != none && y != some 0) then some (e.zip (values.map (·.getD 0))) else none

/-! ## The corrector -/

/-- The word with the error values added, `CW[k] ^ Y_k` (42_syndrome_decoder R168). -/
def applyErrors (pad : Nat) (word : List Byte) (errors : List (Nat × Byte)) : List Byte :=
  errors.foldl (fun w ky => w.modify (ky.1 - pad) (· ^^^ ky.2)) word

/-- The codeword of `C(pad)` within distance 16 of the received word, if there is one (42_syndrome_decoder R166). It is
found by the reference algorithm of R167 to R169, and its answer is taken only if it is such a codeword: "where the
algorithm and the contract could differ, the contract governs" (DEDUCED, log 8). -/
def decodeWord (rom : Rom) (pad : Nat) (word : List Byte) : Option (List Byte) :=
  match locateErrors rom pad (syndromes rom word).toList with
  | none => none
  | some errors =>
    let c := applyErrors pad word errors
    if allZero (syndromes rom c) ∧ distance word c ≤ Config.t then some c else none

/-- The positions k where the received word and the codeword differ, ascending, with the codeword's byte
(42_syndrome_decoder R166). -/
def corrections (pad : Nat) (word c : List Byte) : List (Nat × Byte) :=
  (((List.range' pad word.length).zip (word.zip c)).filter fun x => x.2.1 != x.2.2).map fun x => (x.1, x.2.2)

/-! ## The commands -/

/-- SYN_CALC, acceptance (42_syndrome_decoder R162). -/
def execSynCalc (pad : Byte) (s : State) : Result :=
  unlessBusy (encode (.synCalc pad)) s
    (if padInRange pad then
      complete ({ s with status := { s.status with synZero := false } }.startJob (.synCalc pad))
     else raiseError .badPad (commandInfo (encode (.synCalc pad))) s)

/-- SYN_CALC, completion (42_syndrome_decoder R163). -/
def completeSynCalc (pad : Byte) (s : State) : State :=
  let syn := syndromes s.rom (s.receivedWord pad)
  { s with syn := syn, status := { s.status with synZero := allZero syn } }.endJob

/-- DEC_CORRECT, acceptance (42_syndrome_decoder R165). -/
def execDecCorrect (pad : Byte) (s : State) : Result :=
  unlessBusy (encode (.decCorrect pad)) s
    (if padInRange pad then
      complete ({ s with status := { s.status with synZero := false, decFail := false } }.startJob (.decCorrect pad))
     else raiseError .badPad (commandInfo (encode (.decCorrect pad))) s)

/-- The part of the DEC_CORRECT completion that depends on whether a codeword was found (42_syndrome_decoder R166). -/
def State.recordDecode (s : State) (pad : Nat) (word : List Byte) : Option (List Byte) → State
  | some c =>
    let e := corrections pad word c
    { s with
      cw := s.cw.writeAll e, decNerr := BitVec.ofNat 5 e.length,
      errLoc := tabulate 16 (fun n => BitVec.ofNat 8 (e.getD n (0, 0)).1),
      status := { s.status with decFail := false } }
  | none =>
    { s with decNerr := 0, errLoc := Vector.replicate 16 0, status := { s.status with decFail := true } }

/-- DEC_CORRECT, completion (42_syndrome_decoder R166). -/
def completeDecCorrect (pad : Byte) (s : State) : State :=
  let word := s.receivedWord pad
  let syn := syndromes s.rom word
  let found := decodeWord s.rom pad.toNat word
  let t := { s with syn := syn, status := { s.status with synZero := allZero syn } }
  (t.recordDecode pad.toNat word found).endJob

end Sys2Proof.Machine
end

