-- ==== Sys2Proof/Machine/Encoder.lean ====
section
/-! DEFINITION. The LFSR parity generator: its step, the streaming commands, and the block encode with its completion
(41_encoder R140 to R148). -/

namespace Sys2Proof.Machine

/-- The parity accumulator at zero. -/
def zeroParity : Vector Byte 32 := Vector.replicate 32 0

/-- One lane of the feedback: PARITY[j] with the term of `poly[32 - j]` added, for j = 1..31; lane 0 is lost in the shift
(41_encoder R141). -/
def feedbackLane (rom : Rom) (feedback : Byte) (parity : Vector Byte 32) (j : Nat) : Byte :=
  parity.getD j 0 ^^^ rom.alphaMod (feedback.toNat + (rom.poly.getD (32 - j) 0).toNat)

/-- The accumulator shifted left by one, with a new last byte (41_encoder R141). -/
def shiftParity (lane : Nat → Byte) (last : Byte) : Vector Byte 32 :=
  tabulate 32 fun j => if j < 31 then lane (j + 1) else last

/-- `enc_step(PARITY, d)` (41_encoder R141). -/
def encStep (rom : Rom) (parity : Vector Byte 32) (d : Byte) : Vector Byte 32 :=
  let feedback := rom.index (d ^^^ parity[0])
  if feedback = Config.a0 then shiftParity (fun j => parity.getD j 0) 0
  else shiftParity (feedbackLane rom feedback parity) (rom.alphaMod (feedback.toNat + (rom.poly[0]).toNat))

/-- The parity of a message: its bytes in order, from a zero accumulator (41_encoder R142). -/
def parityOf (rom : Rom) (message : List Byte) : Vector Byte 32 := message.foldl (encStep rom) zeroParity

/-- ENC_INIT (41_encoder R144). -/
def execEncInit (pad : Byte) (s : State) : Result :=
  unlessBusy (encode (.encInit pad)) s
    (if padInRange pad then
      complete { s with
        parity := zeroParity, encPad := pad, encCount := 0,
        status := { s.status with encActive := true, pvalid := false } }
     else raiseError .badPad (commandInfo (encode (.encInit pad))) s)

/-- ENC_DATA (41_encoder R145). -/
def execEncData (data : Word) (s : State) : Result :=
  unlessBusy (encode (.encData data)) s
    (if s.status.encActive = false then raiseError .notActive (accessInfo (encode (.encData data))) s
     else if s.encCount.toNat = messageLength s.encPad then
      raiseError .length (accessInfo (encode (.encData data))) s
     else
      complete { s with parity := encStep s.rom s.parity (byteOperand data), encCount := s.encCount + 1 })

/-- ENC_FINISH (41_encoder R146). -/
def execEncFinish (s : State) : Result :=
  unlessBusy (encode .encFinish) s
    (if s.status.encActive = false then raiseError .notActive (commandInfo (encode .encFinish)) s
     else if s.encCount.toNat ≠ messageLength s.encPad then raiseError .length (commandInfo (encode .encFinish)) s
     else complete { s with status := { s.status with encActive := false, pvalid := true } })

/-- ENC_BLOCK, acceptance (41_encoder R147). -/
def execEncBlock (pad : Byte) (s : State) : Result :=
  unlessBusy (encode (.encBlock pad)) s
    (if padInRange pad then
      complete ({ s with status := { s.status with encActive := false, pvalid := false } }.startJob (.encBlock pad))
     else raiseError .badPad (commandInfo (encode (.encBlock pad))) s)

/-- The message bytes `CW[pad..222]`, in index order (41_encoder R148). -/
def State.messageBytes (s : State) (pad : Byte) : List Byte :=
  (List.range' pad.toNat (messageLength pad)).map s.cwByte

/-- The cells that hold the parity, `CW[223 + j]` for j = 0..31 (41_encoder R148). -/
def parityCells (parity : Vector Byte 32) : List (Nat × Byte) := (List.range' 223 32).zip parity.toList

/-- ENC_BLOCK, completion (41_encoder R148). -/
def completeEncBlock (pad : Byte) (s : State) : State :=
  let parity := parityOf s.rom (s.messageBytes pad)
  { s with
    parity := parity, cw := s.cw.writeAll (parityCells parity), encPad := pad,
    encCount := BitVec.ofNat 8 (messageLength pad), status := { s.status with pvalid := true } }.endJob

end Sys2Proof.Machine
end

