-- ==== Sys2Proof/Machine/Gf.lean ====
section
/-! DEFINITION. The commands of the GF(256) arithmetic unit (40_gf_arith R108 to R115). They write GF_R only. -/

namespace Sys2Proof.Machine

/-- GF_ADD (40_gf_arith R108). -/
def execGfAdd (s : State) : Result :=
  unlessBusy (encode .gfAdd) s (complete { s with gfR := s.gfA ^^^ s.gfB })

/-- GF_MUL (40_gf_arith R109). -/
def execGfMul (s : State) : Result :=
  unlessBusy (encode .gfMul) s (complete { s with gfR := gmul s.rom s.gfA s.gfB })

/-- GF_DIV (40_gf_arith R110). -/
def execGfDiv (s : State) : Result :=
  unlessBusy (encode .gfDiv) s
    (if s.gfB = 0 then raiseError .div0 (commandInfo (encode .gfDiv)) s
     else complete { s with gfR := gdiv s.rom s.gfA s.gfB })

/-- GF_INV (40_gf_arith R111). -/
def execGfInv (s : State) : Result :=
  unlessBusy (encode .gfInv) s
    (if s.gfA = 0 then raiseError .div0 (commandInfo (encode .gfInv)) s
     else complete { s with gfR := ginv s.rom s.gfA })

/-- GF_EXP (40_gf_arith R112). -/
def execGfExp (s : State) : Result :=
  unlessBusy (encode .gfExp) s (complete { s with gfR := s.rom.alpha s.gfA })

/-- GF_LOG (40_gf_arith R113). -/
def execGfLog (s : State) : Result :=
  unlessBusy (encode .gfLog) s (complete { s with gfR := s.rom.index s.gfA })

/-- GF_MAC (40_gf_arith R114). -/
def execGfMac (s : State) : Result :=
  unlessBusy (encode .gfMac) s (complete { s with gfR := s.gfR ^^^ gmul s.rom s.gfA s.gfB })

/-- GF_HORNER (40_gf_arith R115). -/
def execGfHorner (s : State) : Result :=
  unlessBusy (encode .gfHorner) s (complete { s with gfR := gmul s.rom s.gfR s.gfB ^^^ s.gfA })

end Sys2Proof.Machine
end

