-- ==== Sys2Proof/Machine/Dispatch.lean ====
section
/-! DEFINITION. One arm for each instruction: what a legal write of it does in a state. -/

namespace Sys2Proof.Machine

def exec (i : Instr) (s : State) : Host.Outcome State Fault Refusal :=
  match i with
  | .nop => Sys2Proof.Machine.execNop s
  | .softReset => Sys2Proof.Machine.execSoftReset s
  | .clrStatus mask => Sys2Proof.Machine.execClrStatus mask s
  | .encInit pad => Sys2Proof.Machine.execEncInit pad s
  | .encFinish => Sys2Proof.Machine.execEncFinish s
  | .encBlock pad => Sys2Proof.Machine.execEncBlock pad s
  | .gfAdd => Sys2Proof.Machine.execGfAdd s
  | .gfMul => Sys2Proof.Machine.execGfMul s
  | .gfDiv => Sys2Proof.Machine.execGfDiv s
  | .gfInv => Sys2Proof.Machine.execGfInv s
  | .gfExp => Sys2Proof.Machine.execGfExp s
  | .gfLog => Sys2Proof.Machine.execGfLog s
  | .gfMac => Sys2Proof.Machine.execGfMac s
  | .gfHorner => Sys2Proof.Machine.execGfHorner s
  | .synCalc pad => Sys2Proof.Machine.execSynCalc pad s
  | .decCorrect pad => Sys2Proof.Machine.execDecCorrect pad s
  | .chkInit => Sys2Proof.Machine.execChkInit s
  | .chkSetmax size => Sys2Proof.Machine.execChkSetmax size s
  | .wrCtrl data => Sys2Proof.Machine.execWrCtrl data s
  | .encData data => Sys2Proof.Machine.execEncData data s
  | .wrGfA data => Sys2Proof.Machine.execWrGfA data s
  | .wrGfB data => Sys2Proof.Machine.execWrGfB data s
  | .wrGfR data => Sys2Proof.Machine.execWrGfR data s
  | .chkData data => Sys2Proof.Machine.execChkData data s
  | .wrCw k data => Sys2Proof.Machine.execWrCw k data s

end Sys2Proof.Machine
end

