-- ==== Sys2Proof/Machine/Read.lean ====
section
/-! DEFINITION. Bus reads (20_memory R62, R63, 44_control R216 to R218) and the constant registers (10_state R24 to
R27). -/

namespace Sys2Proof.Machine

/-- JOBSET, the registers a job may write (60_exceptions R252). -/
def inJobset : Reg → Bool
  | .id => false
  | .param0 => false
  | .param1 => false
  | .chkCapr => false
  | .ctrl => false
  | .cmd => false
  | .status => false
  | .errInfo => false
  | .encData => false
  | .encPad => true
  | .encCount => true
  | .gfA => false
  | .gfB => false
  | .gfR => false
  | .decNerr => true
  | .chkData => false
  | .chkMax => false
  | .chkSum => false
  | .chkId => false
  | .chkLen => false
  | .chkCount => false
  | .chkTrailer => false
  | .parity _ => true
  | .syn _ => true
  | .errLoc _ => true
  | .cw _ => true

/-- PARAM1: `{0, HAS_CHK, FIELD_POLY, NN, MM}` (10_state R26). -/
def param1Word (cfg : Config) : Word :=
  (((0#6 ++ BitVec.ofBool cfg.hasChk) ++ cfg.fieldPoly) ++ 0xFF#8) ++ 0x08#8

/-- CHK_CAPR: CHK_CAP in [16:0], and 0 when HAS_CHK = 0 (10_state R27). -/
def chkCaprWord (cfg : Config) : Word := if cfg.hasChk then 0#15 ++ BitVec.ofNat 17 cfg.chkCap else 0

/-- The current value of a register, its unused high bits 0 (10_state R21 to R49). A write-only port reads 0 (R21). -/
def regValue (s : State) : Reg → Word
  | .id => 0x52530801
  | .param0 => 0x740B7020
  | .param1 => param1Word s.cfg
  | .chkCapr => chkCaprWord s.cfg
  | .ctrl => s.ctrl.setWidth 32
  | .cmd => 0
  | .status => statusWord s.cfg.hasChk s.status s.irq
  | .errInfo => s.errInfo
  | .encData => 0
  | .encPad => s.encPad.setWidth 32
  | .encCount => s.encCount.setWidth 32
  | .gfA => s.gfA.setWidth 32
  | .gfB => s.gfB.setWidth 32
  | .gfR => s.gfR.setWidth 32
  | .decNerr => s.decNerr.setWidth 32
  | .chkData => 0
  | .chkMax => s.chkMax.setWidth 32
  | .chkSum => s.chkSum.setWidth 32
  | .chkId => s.chkId.setWidth 32
  | .chkLen => s.chkLen.setWidth 32
  | .chkCount => s.chkCount.setWidth 32
  | .chkTrailer => s.chkTrailer.setWidth 32
  | .parity j => (s.parity[j.val]).setWidth 32
  | .syn i => (s.syn[i.val]).setWidth 32
  | .errLoc k => (s.errLoc[k.val]).setWidth 32
  | .cw k => (s.cwByte k.toNat).setWidth 32

/-- Whether a read draws a free value: a JOBSET register while BUSY (60_exceptions R252). -/
def readDraws (s : State) (off : Offset) (size : Size) : Bool :=
  match size, regAt s.cfg.hasChk off with
  | .four, some r => s.status.busy && inJobset r
  | _, _ => false

/-- The word that a read returns when it draws no free value: 0 for a bad size, a bad alignment, an unmapped offset or a
write-only register (44_control R216). -/
def readWord (s : State) (off : Offset) (size : Size) : Word :=
  match size, regAt s.cfg.hasChk off with
  | .four, some r => regValue s r
  | _, _ => 0

/-- A bus read: the block's state does not change (20_memory R63). Only the model's own `rdata`, and `draws` where the
value is free, record it (logs 6 and 7). -/
def busRead (off : Offset) (size : Size) (s : State) : State :=
  if readDraws s off size then { s with rdata := some (Config.busyRead s.draws), draws := s.draws + 1 }
  else { s with rdata := some (readWord s off size) }

end Sys2Proof.Machine
end

