-- ==== Sys2Proof/Machine/Bus.lean ====
section
/-! DEFINITION. The turns of the agents (00_scope R11): host writes and reads, the engine, the reset input and power-up. -/

namespace Sys2Proof.Machine

/-- A host write that is no instruction, or is one (44_control R219), in the order of checks of 60_exceptions R244. -/
def busWrite (a : BusWrite) (s : State) : Result :=
  match decodeWrite s.cfg.hasChk a with
  | .ok i => exec i s
  | .error .access => raiseError .access (accessInfo a) s
  | .error .badOpcode => unlessBusy a s (raiseError .badOpcode (commandInfo a) s)
  | .error .rsvdArg => unlessBusy a s (raiseError .rsvdArg (commandInfo a) s)

/-- The completion step of the engine, which is enabled exactly when JOB != NONE (60_exceptions R250, 70_reset R281). -/
def engineStep (s : State) : State :=
  match s.job with
  | none => s
  | some (.encBlock pad) => completeEncBlock pad s
  | some (.synCalc pad) => completeSynCalc pad s
  | some (.decCorrect pad) => completeDecCorrect pad s

/-- A turn of the engine: its step where it is enabled, and nothing where no job is pending (70_reset R281). -/
def engineTurn (s : State) : Result :=
  match s.job with
  | none => .next s
  | some _ => complete (engineStep s)

/-- The reset input (70_reset R270). -/
def resetInput (s : State) : State := s.resetRegisters

/-- Power-up: a reset, with CW unspecified (70_reset R270, R271, log 5). -/
def powerUp (s : State) : State :=
  { s.resetRegisters with cw := { cells := [] }, powerUps := s.powerUps + 1 }

/-- The offset of a bus address, if the platform routes it to the block: address bits [10:0] of an address in
`[RS_BASE, RS_BASE + 0x7FF]` (20_memory R61). -/
def routedOffset (cfg : Config) (addr : Nat) : Option Offset :=
  if cfg.rsBase ≤ addr ∧ addr < cfg.rsBase + 0x800 then some (BitVec.ofNat 11 addr) else none

/-- One turn of one agent. irq is recomputed after a host write, an engine completion and a reset (60_exceptions R245);
a read changes nothing (20_memory R63). -/
def runTurn (t : Turn) (s : State) : Result :=
  match t with
  | .write addr size data =>
    match routedOffset s.cfg addr with
    | none => .fault .outsideWindow
    | some off => busWrite { off := off, size := size, data := data } s
  | .read addr size =>
    match routedOffset s.cfg addr with
    | none => .fault .outsideWindow
    | some off => .next (busRead off size s)
  | .engine => engineTurn s
  | .reset => complete (resetInput s)
  | .powerUp => complete (powerUp s)

/-- The turn of a state whose agenda is empty: a pending job completes, since it completes eventually
(60_exceptions R250); with none pending the block idles (log 1). -/
def idleTurn (s : State) : Result := engineTurn s

end Sys2Proof.Machine
end

