-- ==== Sys2Proof/Machine/Step.lean ====
section
/-! DEFINITION. One step of the machine: the next turn of the agenda, for parameters that are legal (00_scope R8). -/

namespace Sys2Proof.Machine

/-- One step. The agenda says which agent moves next (00_scope R11, log 1). -/
def step (s : State) : Host.Outcome State Fault Refusal :=
  if configOk s.cfg then
    match s.agenda with
    | [] => idleTurn s
    | t :: rest => runTurn t { s with agenda := rest }
  else .refused .badConfig

/-- The turn in which the host performs a write at an offset of the window. -/
def State.hostWrite (s : State) (a : BusWrite) : Turn := .write (s.cfg.rsBase + a.off.toNat) a.size a.data

/-- The state with an instruction of the opcode table as the next turn (log 2). -/
def State.withFetchWord (s : State) (nbits w : Nat) : State :=
  { s with agenda := s.hostWrite (tableWrite nbits w) :: s.agenda }

end Sys2Proof.Machine
end

