-- ==== Sys2Proof/Safety.lean ====
section
/-! DEFINITION. The terms in which claims are made: what a rejected write leaves, the invariant of the machine's states,
the field and the code as the spec defines them apart from the tables, and runs of several instructions. -/

namespace Sys2Proof.Machine

/-! ## Outcomes -/

/-- A state in which the next host write is not rejected with BUSY. -/
abbrev State.ready (s : State) : Prop := s.status.busy = false

/-- The state that a rejected write leaves: the error captured and irq recomputed (60_exceptions R240, R241). -/
def State.rejected (s : State) (code : ErrCode) (info : Word) : State := (s.capture code info).settleIrq

/-- In state s, a command word with this opcode and a set bit among its required-zero bits raises RSVD_ARG
(30_encoding R84). -/
def reservedBitsRejected (opc : Byte) (zeroBits : Word) (s : State) : Prop :=
  ∀ w : Word, opcOf w = opc → w &&& zeroBits ≠ 0 →
    busWrite (commandWrite w) s = .next (s.rejected .rsvdArg w)

/-- Every byte of the codeword buffer reads as before. -/
abbrev sameBuffer (s t : State) : Prop := ∀ k : Nat, t.cwByte k = s.cwByte k

/-- Only ERR and ERRCODE of STATUS may differ. -/
abbrev sameStatusButError (st st' : Status) : Prop := st' = { st with err := st'.err, errCode := st'.errCode }

/-- Instructions one after the other, stopping at the first fault or refusal. -/
def execAll : List Instr → State → Result
  | [], s => .next s
  | i :: is, s =>
    match exec i s with
    | .next t => execAll is t
    | .fault r => .fault r
    | .refused r => .refused r

/-- Steps of the machine, stopping at the first fault or refusal. -/
def runSteps : Nat → State → Result
  | 0, s => .next s
  | n + 1, s =>
    match step s with
    | .next t => runSteps n t
    | .fault r => .fault r
    | .refused r => .refused r

/-- A turn that the platform can route to the block (20_memory R61). -/
def routedTurn (cfg : Config) : Turn → Bool
  | .write addr _ _ => (routedOffset cfg addr).isSome
  | .read addr _ => (routedOffset cfg addr).isSome
  | .engine => true
  | .reset => true
  | .powerUp => true

/-- A safe run makes a step: it neither faults nor is refused. -/
def safeStep (s : State) : Prop := ∃ t, step s = .next t

/-! ## The invariant -/

/-- The pad of a job (10_state R50). -/
def Job.pad : Job → Byte
  | .encBlock pad => pad
  | .synCalc pad => pad
  | .decCorrect pad => pad

/-- What holds of every state that a run reaches. -/
structure State.Inv (s : State) : Prop where
  /-- The parameters are legal (00_scope R8). -/
  paramsLegal : configOk s.cfg = true
  /-- The codeword buffer is in its canonical form. -/
  bufferCanonical : s.cw.wf
  /-- `STATUS.BUSY = (JOB != NONE)` (10_state R50). -/
  busyIffJob : s.status.busy = s.job.isSome
  /-- irq has the value of its formula (60_exceptions R245). -/
  irqFollows : s.irq = irqLevel s.ctrl s.status
  /-- A pending job has a legal pad (41_encoder R147). -/
  jobPadLegal : ∀ job, s.job = some job → padInRange job.pad = true
  /-- `ENC_PAD + ENC_COUNT <= KMAX` (10_state R35). -/
  messageFits : s.encPad.toNat + s.encCount.toNat ≤ 223
  /-- PVALID: a complete message, and no streaming encode is open (10_state R30). -/
  parityComplete : s.status.pvalid = true →
    s.encPad.toNat + s.encCount.toNat = 223 ∧ s.status.encActive = false
  /-- A block encode has closed the streaming encode (41_encoder R147). -/
  blockEncodeClosed : ∀ pad, s.job = some (.encBlock pad) → s.status.encActive = false ∧ s.status.pvalid = false
  /-- `CHK_MAX <= CHK_CAP` (10_state R40). -/
  maxFits : s.chkMax.toNat ≤ s.cfg.chkCap
  /-- ERRCODE and ERRINFO hold a record exactly while ERR = 1 (60_exceptions R241, R242). -/
  errorRecord : (s.status.err = false → s.errInfo = 0) ∧ (s.status.err = false ↔ s.status.errCode = .none)
  /-- At most 16 symbols were corrected, and ERRLOC is 0 past them (10_state R38, R48). -/
  correctionsCounted : s.decNerr.toNat ≤ 16 ∧ ∀ n : Fin 16, s.decNerr.toNat ≤ n.val → s.errLoc[n] = 0
  /-- ERRLOC ascends (10_state R48). -/
  correctionsAscend : ∀ m n : Fin 16, m < n → n.val < s.decNerr.toNat → s.errLoc[m] < s.errLoc[n]
  /-- DEC_NERR is 0 after a failed decode (10_state R38). -/
  failedDecode : s.status.decFail = true → s.decNerr = 0
  /-- SYN_ZERO: all syndromes are zero (10_state R30). -/
  syndromesZero : s.status.synZero = true → ∀ i : Fin 32, s.syn[i] = 0
  /-- CHK_COUNT stays within an open package, and at most 65541 (10_state R44, 43_checksum R193). -/
  packageFits : s.chkCount.toNat ≤ 65541 ∧
    (s.status.chkActive = true → 4 ≤ s.chkCount.toNat → s.chkCount.toNat ≤ 5 + s.chkLen.toNat)
  /-- While a package is open there is no result (43_checksum R192, R194, R196). -/
  openHasNoResult : s.status.chkActive = true → s.status.chkRes = .none ∧ s.status.chkEchoMatch = false
  /-- Without the validator IE_CHK and STATUS[10:7] are 0 (10_state R53). -/
  validatorAbsent : s.cfg.hasChk = false →
    ieChk s.ctrl = false ∧ s.status.chkActive = false ∧ s.status.chkRes = .none ∧ s.status.chkEchoMatch = false

/-! ## The field and the code, apart from the tables -/

/-- The product of two symbols as polynomials modulo F(x): the sum of `a * x^i` over the bits i of b
(40_gf_arith R100). -/
def fieldMul (fieldPoly : BitVec 9) (a b : Byte) : Byte :=
  (List.range 8).foldl (fun acc i => if b.getLsbD i then acc ^^^ (xtime fieldPoly)^[i] a else acc) 0

/-- The value of a word at z, as the sum over its symbols of `c * z^d`, the last symbol at degree 0
(42_syndrome_decoder R161). -/
def wordValue (fieldPoly : BitVec 9) (z : Byte) : List Byte → Byte
  | [] => 0
  | c :: word => fieldMul fieldPoly c ((fieldMul fieldPoly z)^[word.length] 1) ^^^ wordValue fieldPoly z word

/-- The word is a codeword of `C(pad)` (42_syndrome_decoder R164). -/
def inCode (rom : Rom) (pad : Nat) (word : List Byte) : Prop :=
  word.length = 255 - pad ∧ ∀ i < 32, syndrome rom word i = 0

/-- The bytes of a Data Package: its header, payload, checksum byte and echo byte (43_checksum R190). -/
def packageBytes (idLow idHigh lenLow lenHigh : Byte) (payload : List Byte) (checksum echo : Byte) : List Byte :=
  [idLow, idHigh, lenLow, lenHigh] ++ payload ++ [checksum, echo]

/-- The additive sum of bytes, modulo 256 (43_checksum R191). -/
def byteSum (bytes : List Byte) : Byte := bytes.foldl (· + ·) 0

/-- The legal opcodes, each with its required-zero bits (30_encoding R83, R84). -/
def commandTable (hasChk : Bool) : List (Byte × Word) :=
  [(0x00, 0xFFFFFF00), (0x01, 0xFFFFFF00), (0x02, 0xFFFFF800), (0x10, 0xFFFF0000), (0x11, 0xFFFFFF00),
   (0x12, 0xFFFF0000), (0x20, 0xFFFFFF00), (0x21, 0xFFFFFF00), (0x22, 0xFFFFFF00), (0x23, 0xFFFFFF00),
   (0x24, 0xFFFFFF00), (0x25, 0xFFFFFF00), (0x26, 0xFFFFFF00), (0x27, 0xFFFFFF00), (0x30, 0xFFFF0000),
   (0x31, 0xFFFF0000)] ++
  (if hasChk then [(0x40, 0xFFFFFF00), (0x41, 0x0000FF00)] else [])

end Sys2Proof.Machine
end

