-- ==== Sys2Proof/Certificates/Slice0/Obligations.lean ====
section
/-! DEFINITION. The statements about the model, each from the rules of spec/ that its docstring names. -/

open Sys2Proof Sys2Proof.Machine

/-! ## Encoding -/

/-- Words written out from the spec's encodings (30_encoding R81, R83, R87) decode to the instructions they stand for,
one of every family. -/
def Obligations.SpecWordsDecode : Prop :=
  decodeWrite true ⟨0x014, .four, 0x00000000⟩ = .ok .nop ∧
  decodeWrite true ⟨0x014, .four, 0x00000702⟩ = .ok (.clrStatus 7) ∧
  decodeWrite true ⟨0x014, .four, 0x0000DB10⟩ = .ok (.encInit 219) ∧
  decodeWrite true ⟨0x014, .four, 0x00000027⟩ = .ok .gfHorner ∧
  decodeWrite true ⟨0x014, .four, 0x0000DF30⟩ = .ok (.synCalc 223) ∧
  decodeWrite true ⟨0x014, .four, 0x00860041⟩ = .ok (.chkSetmax 134) ∧
  decodeWrite true ⟨0x020, .four, 0x0000005A⟩ = .ok (.encData 0x5A) ∧
  decodeWrite true ⟨0x76C, .four, 0x00000148⟩ = .ok (.wrCw 219 0x148)

/-- Decoding the encoding of any well-formed instruction gives it back, with every operand at every value, wherever the
instruction exists (30_encoding R81 to R87). -/
def Obligations.DecodeOfEncode : Prop :=
  ∀ (hasChk : Bool) (i : Instr), i.wf = true → (i.needsChk = true → hasChk = true) →
    decodeWrite hasChk (encode i) = .ok i

/-- Each bus write stands for at most one instruction, and no two writes stand for one: a write that decodes is the
encoding of what it decodes to, which is well-formed and exists (30_encoding R81 to R87). For the port writes the second
half is the model's choice (log 9, DEDUCED): their instructions carry the whole data word, of which R82 and R87 take
`data[7:0]` or `data[2:0]` as the operand and ignore the rest. -/
def Obligations.EncodeOfDecode : Prop :=
  ∀ (hasChk : Bool) (a : BusWrite) (i : Instr), decodeWrite hasChk a = .ok i →
    encode i = a ∧ i.wf = true ∧ (i.needsChk = true → hasChk = true)

/-- Every word written to CMD is exactly one of: a legal command, a legal opcode with a nonzero required-zero bit, an
illegal opcode (30_encoding R84, R85, R91), by the table of legal opcodes. On an idle block the last two raise RSVD_ARG
and BAD_OPCODE with the word, and do nothing else. -/
def Obligations.CommandWordsFallInThreeClasses : Prop :=
  ∀ (hasChk : Bool) (w : Word),
    ((∀ zeroBits, (opcOf w, zeroBits) ∉ commandTable hasChk) →
      decodeWrite hasChk (commandWrite w) = .error .badOpcode ∧
      ∀ s : State, s.cfg.hasChk = hasChk → s.ready →
        busWrite (commandWrite w) s = .next (s.rejected .badOpcode w)) ∧
    (∀ zeroBits, (opcOf w, zeroBits) ∈ commandTable hasChk →
      (w &&& zeroBits ≠ 0 →
        decodeWrite hasChk (commandWrite w) = .error .rsvdArg ∧
        ∀ s : State, s.cfg.hasChk = hasChk → s.ready →
          busWrite (commandWrite w) s = .next (s.rejected .rsvdArg w)) ∧
      (w &&& zeroBits = 0 → ∃ i, decodeWrite hasChk (commandWrite w) = .ok i))

/-- The only command words without effect are NOP and CLR_STATUS with mask 0 (30_encoding R86). -/
def Obligations.OnlyTwoNoOpWords : Prop :=
  ∀ w : Word,
    (∀ s : State, s.ready → s.irq = irqLevel s.ctrl s.status → busWrite (commandWrite w) s = .next s) ↔
      w = 0x00000000 ∨ w = 0x00000002

/-! ## Turns and steps -/

/-- What a step does with each kind of turn, in the state with that turn taken off the agenda, for any parameters that
are legal: a routed host write runs `busWrite`, which runs the decoded instruction where the write decodes; a routed host
read runs `busRead`; any turn runs `runTurn`; with an empty agenda the engine has its turn (00_scope R11, 44_control R219,
20_memory R61). The agenda, and the engine's turn when it is empty, are the model's choice (log 1). -/
def Obligations.StepRunsDecodedInstruction : Prop :=
  ∀ s : State, configOk s.cfg = true →
    (∀ (a : BusWrite) (rest : List Turn),
      s.agenda = .write (s.cfg.rsBase + a.off.toNat) a.size a.data :: rest →
      step s = busWrite a { s with agenda := rest } ∧
      ∀ i : Instr, decodeWrite s.cfg.hasChk a = .ok i → step s = exec i { s with agenda := rest }) ∧
    (∀ (off : Offset) (size : Size) (rest : List Turn),
      s.agenda = .read (s.cfg.rsBase + off.toNat) size :: rest →
      step s = .next (busRead off size { s with agenda := rest })) ∧
    (∀ (turn : Turn) (rest : List Turn), s.agenda = turn :: rest → step s = runTurn turn { s with agenda := rest }) ∧
    (s.agenda = [] → step s = runTurn .engine s)

/-- Every instruction answers a next state in every state: no rule makes the block stuck (93_implementation_defined
I18). -/
def Obligations.EveryInstructionAnswersNext : Prop := ∀ (i : Instr) (s : State), ∃ t, exec i s = .next t

/-- A step of a machine with legal parameters is safe when its next turn is routed to the block (20_memory R61), whatever
the state; and with any other parameters every step is refused. The conditions are written out: the bounds of CHK_CAP, the
alignment of RS_BASE, and x of order exactly 255. Two of the refusals are the spec's: CHK_CAP below 64 (00_scope R8) and a
FIELD_POLY that is not primitive (40_gf_arith R100). That CHK_CAP above 65535 (00_scope R7) and an RS_BASE that is no
multiple of 0x800 (20_memory R61) are refused too is the model's choice (log 3), and so is the step of an empty agenda
(log 1). -/
def Obligations.LegalParametersStepSafely : Prop :=
  ∀ s : State,
    let legal := 64 ≤ s.cfg.chkCap ∧ s.cfg.chkCap ≤ 65535 ∧ s.cfg.rsBase % 0x800 = 0 ∧
      s.cfg.fieldPoly.msb = true ∧ alphaPow s.cfg.fieldPoly 255 = 1 ∧
      ∀ e, 0 < e → e < 255 → alphaPow s.cfg.fieldPoly e ≠ 1
    (legal → (∀ t ∈ s.agenda.head?, routedTurn s.cfg t = true) → safeStep s) ∧
    (¬ legal → step s = .refused .badConfig)

/-- A pending job completes within as many steps as the agenda has turns, and one more: whatever the agenda holds,
some state of the run has no job (60_exceptions R250, 70_reset R281). That the engine moves once the agenda is empty is
the model's choice (log 1). -/
def Obligations.PendingJobsEnd : Prop :=
  ∀ s : State, configOk s.cfg = true → (∀ t ∈ s.agenda, routedTurn s.cfg t = true) →
    ∃ n t, n ≤ s.agenda.length + 1 ∧ runSteps n s = .next t ∧ t.job = none

/-! ## Errors and the interrupt -/

/-- Taking an error (60_exceptions R241): with ERR clear, the code and the information are recorded; with ERR set, the
first error is kept. Nothing else changes but irq, which is recomputed. -/
def Obligations.FirstErrorIsKept : Prop :=
  ∀ (s : State) (code : ErrCode) (info : Word),
    (s.status.err = false →
      raiseError code info s = .next { s with
        status := { s.status with err := true, errCode := code }, errInfo := info,
        irq := irqLevel s.ctrl { s.status with err := true, errCode := code } }) ∧
    (s.status.err = true → raiseError code info s = .next { s with irq := irqLevel s.ctrl s.status })

/-- The information words (60_exceptions R243) as numbers, `{1, 0000, off, data[15:0]}` for the access class and the word
itself for the command class, and the numbers of the error codes (60_exceptions R242) and of the package results
(10_state R30). -/
def Obligations.ErrorInformationFormats : Prop :=
  (∀ a : BusWrite,
    (accessInfo a).toNat = 2 ^ 31 + a.off.toNat * 2 ^ 16 + a.data.toNat % 2 ^ 16 ∧ commandInfo a = a.data) ∧
  [ErrCode.none, .badOpcode, .rsvdArg, .badPad, .notActive, .length, .busy, .access, .div0, .size].map
    (fun code => code.code.toNat) = List.range 10 ∧
  [ChkRes.none, .pass, .checksumFailure, .sizeExceeded].map (fun res => res.code.toNat) = List.range 4

/-- The order of the checks that precede a write's own (60_exceptions R244 steps 1 to 5): size, alignment and mapping;
the exact SOFT_RESET word; BUSY; the opcode; the required-zero fields. A write that passes them is an instruction. -/
def Obligations.WriteChecksInOrder : Prop :=
  ∀ (s : State) (a : BusWrite),
    let accessBad := a.size ≠ .four ∨ a.off.toNat % 4 ≠ 0 ∨
      ∀ r, regAt s.cfg.hasChk a.off = some r → r.access = .ro
    let isCmd := a.off = 0x014
    let legalOpcode := ∃ zeroBits, (opcOf a.data, zeroBits) ∈ commandTable s.cfg.hasChk
    let reserved := ∃ zeroBits, (opcOf a.data, zeroBits) ∈ commandTable s.cfg.hasChk ∧ a.data &&& zeroBits ≠ 0
    (accessBad → busWrite a s = .next (s.rejected .access (accessInfo a))) ∧
    (¬ accessBad → isCmd → a.data = 0x00000001 → busWrite a s = .next s.resetRegisters.settleIrq) ∧
    (¬ accessBad → ¬ (isCmd ∧ a.data = 0x00000001) → s.status.busy = true →
      busWrite a s = .next (s.rejected .busy (accessInfo a))) ∧
    (¬ accessBad → s.ready → isCmd → ¬ legalOpcode → busWrite a s = .next (s.rejected .badOpcode a.data)) ∧
    (¬ accessBad → s.ready → isCmd → reserved → busWrite a s = .next (s.rejected .rsvdArg a.data)) ∧
    (¬ accessBad → s.ready → (isCmd → legalOpcode ∧ ¬ reserved) →
      ∃ i, encode i = a ∧ busWrite a s = exec i s)

/-- While BUSY every write that passes the access checks is rejected with BUSY, each instruction of each family and each
faulty command word included; the one exception is the exact SOFT_RESET word to CMD. So the codeword buffer cannot change
under a job but by the job (60_exceptions R251). -/
def Obligations.BusyRejectsAllButSoftReset : Prop :=
  ∀ s : State, s.status.busy = true →
    (∀ a : BusWrite, decodeWrite s.cfg.hasChk a ≠ .error .access → a ≠ ⟨0x014, .four, 0x00000001⟩ →
      busWrite a s = .next (s.rejected .busy (accessInfo a))) ∧
    busWrite ⟨0x014, .four, 0x00000001⟩ s = .next s.resetRegisters.settleIrq ∧
    (∀ i : Instr, i ≠ .softReset → i.wf = true → (i.needsChk = true → s.cfg.hasChk = true) →
      exec i s = .next (s.rejected .busy (accessInfo (encode i)))) ∧
    (∀ (a : BusWrite) (t : State), busWrite a s = .next t → t.cw = s.cw)

/-- The irq formula (60_exceptions R245), after every host write, engine completion, reset and power-up turn, from every
state; a read of STATUS shows it in bit 11, and the reset input drives it to 0. -/
def Obligations.IrqFollowsItsFormula : Prop :=
  (∀ (turn : Turn) (s t : State), runTurn turn s = .next t →
    (∀ addr size, turn ≠ .read addr size) → (turn = .engine → s.job ≠ none) →
    t.irq = (t.ctrl.getLsbD 0 && t.status.done || t.ctrl.getLsbD 1 && t.status.err ||
      t.ctrl.getLsbD 2 && decide (t.status.chkRes ≠ .none))) ∧
  (∀ s : State, (regValue s .status).getLsbD 11 = s.irq) ∧
  (∀ s t : State, runTurn .reset s = .next t → t.irq = false)

/-- CLR_STATUS (44_control R212): DONE by mask bit 0, the error record by bit 1, the package result by bit 2 (not without
the validator), and nothing else but irq. This is also the return from an error (60_exceptions R247). -/
def Obligations.ClearStatusClearsByMask : Prop :=
  ∀ (mask : BitVec 3) (s : State), s.ready →
    let st : Status := { s.status with
      done := s.status.done && !mask.getLsbD 0
      err := s.status.err && !mask.getLsbD 1
      errCode := if mask.getLsbD 1 then .none else s.status.errCode
      chkRes := if mask.getLsbD 2 && s.cfg.hasChk then .none else s.status.chkRes
      chkEchoMatch := s.status.chkEchoMatch && !(mask.getLsbD 2 && s.cfg.hasChk) }
    exec (.clrStatus mask) s = .next { s with
      status := st, errInfo := if mask.getLsbD 1 then 0 else s.errInfo, irq := irqLevel s.ctrl st } ∧
    reservedBitsRejected 0x02 0xFFFFF800 s

/-! ## Reads -/

/-- A read of STATUS (44_control R218), field by field, exact even while BUSY; bits [10:7] read 0 without the validator
(10_state R30, R53). -/
def Obligations.StatusReadLayout : Prop :=
  ∀ s : State,
    let w := regValue s .status
    busRead 0x018 .four s = { s with rdata := some w } ∧
    w.getLsbD 0 = s.status.busy ∧ w.getLsbD 1 = s.status.done ∧ w.getLsbD 2 = s.status.err ∧
    w.getLsbD 3 = s.status.encActive ∧ w.getLsbD 4 = s.status.pvalid ∧ w.getLsbD 5 = s.status.synZero ∧
    w.getLsbD 6 = s.status.decFail ∧ w.getLsbD 7 = (s.cfg.hasChk && s.status.chkActive) ∧
    w.extractLsb' 8 2 = (if s.cfg.hasChk then s.status.chkRes.code else 0) ∧
    w.getLsbD 10 = (s.cfg.hasChk && s.status.chkEchoMatch) ∧ w.getLsbD 11 = s.irq ∧
    w.extractLsb' 12 4 = 0 ∧ w.extractLsb' 16 8 = s.status.errCode.code ∧ w.extractLsb' 24 8 = 0

/-- A read changes no state of the block: only the model's `rdata` and `draws` record it (logs 6 and 7). A read of another
size or alignment, of a write-only register or of an unmapped offset returns 0, any other its register, unless it draws a
free value (20_memory R63, 44_control R216, 60_exceptions R252). The whole register map is written out by offset (10_state R21,
R22, 44_control R217): what each readable register returns, its unused high bits 0, and that the write-only ports and the
unmapped offsets return 0. ConstantRegisters and StatusReadLayout say it of the constant registers and of STATUS, and
ValidatorAbsent of the offsets that a missing validator leaves unmapped. -/
def Obligations.ReadsReturnRegistersAndChangeNothing : Prop :=
  ∀ s : State,
    (∀ (off : Offset) (size : Size),
      let t := busRead off size s
      t = { s with rdata := t.rdata, draws := t.draws } ∧
      (size ≠ .four ∨ off.toNat % 4 ≠ 0 ∨ regAt s.cfg.hasChk off = none → t.rdata = some 0) ∧
      (∀ r, size = .four → regAt s.cfg.hasChk off = some r →
        (r.access = .wo → t.rdata = some 0) ∧
        (¬ (s.status.busy = true ∧ inJobset r = true) → t.rdata = some (regValue s r) ∧ t.draws = s.draws))) ∧
    let returns (off value : Nat) : Prop :=
      busRead (BitVec.ofNat 11 off) .four s = { s with rdata := some (BitVec.ofNat 32 value) }
    (∀ (off : Offset) (size : Size),
      (0x03C ≤ off.toNat ∧ off.toNat < 0x040) ∨ (0x05C ≤ off.toNat ∧ off.toNat < 0x080) ∨
        (0x1C0 ≤ off.toNat ∧ off.toNat < 0x400) ∨ 0x7FC ≤ off.toNat →
      busRead off size s = { s with rdata := some 0 }) ∧
    (returns 0x010 s.ctrl.toNat ∧ returns 0x014 0 ∧ returns 0x01C s.errInfo.toNat ∧ returns 0x020 0 ∧
      returns 0x02C s.gfA.toNat ∧ returns 0x030 s.gfB.toNat ∧ returns 0x034 s.gfR.toNat) ∧
    (s.cfg.hasChk = true → returns 0x040 0 ∧
      returns 0x044 s.chkMax.toNat ∧ returns 0x048 s.chkSum.toNat ∧ returns 0x04C s.chkId.toNat ∧
      returns 0x050 s.chkLen.toNat ∧ returns 0x054 s.chkCount.toNat ∧ returns 0x058 s.chkTrailer.toNat) ∧
    (s.ready →
      returns 0x024 s.encPad.toNat ∧ returns 0x028 s.encCount.toNat ∧ returns 0x038 s.decNerr.toNat ∧
      (∀ j : Fin 32, returns (0x080 + 4 * j.val) s.parity[j].toNat) ∧
      (∀ i : Fin 32, returns (0x100 + 4 * i.val) s.syn[i].toNat) ∧
      (∀ k : Fin 16, returns (0x180 + 4 * k.val) s.errLoc[k].toNat) ∧
      ∀ k : Nat, k ≤ 254 → returns (0x400 + 4 * k) (s.cwByte k).toNat)

/-- While BUSY a read of a JOBSET register (CW, PARITY, SYN, ERRLOC, DEC_NERR, ENC_PAD, ENC_COUNT) returns a free value,
a fresh one each time, and a read of any other register is exact (60_exceptions R252). The statement holds for every
value of `Config.busyRead`. -/
def Obligations.JobsetReadsWhileBusyAreFree : Prop :=
  ∀ (off : Offset) (s : State) (r : Reg), s.status.busy = true → regAt s.cfg.hasChk off = some r →
    let jobset := r = .decNerr ∨ r = .encPad ∨ r = .encCount ∨ (∃ k, r = .cw k) ∨ (∃ j, r = .parity j) ∨
      (∃ i, r = .syn i) ∨ ∃ k, r = .errLoc k
    (jobset → busRead off .four s =
      { s with rdata := some (Config.busyRead s.draws), draws := s.draws + 1 }) ∧
    (¬ jobset → busRead off .four s = { s with rdata := some (regValue s r) })

/-- The constant registers (10_state R22, R24 to R27): what a read at the offset of each returns, as a number, in every
state, busy ones too; a write to one raises ACCESS. -/
def Obligations.ConstantRegisters : Prop :=
  ∀ s : State,
    let param1 := (if s.cfg.hasChk then 2 ^ 25 else 0) + s.cfg.fieldPoly.toNat * 2 ^ 16 + 0xFF * 2 ^ 8 + 0x08
    let chkCapr := if s.cfg.hasChk then s.cfg.chkCap else 0
    let returns (off : Offset) (r : Reg) (value : Nat) : Prop :=
      busRead off .four s = { s with rdata := some (regValue s r) } ∧ (regValue s r).toNat = value
    returns 0x000 .id 0x52530801 ∧ returns 0x004 .param0 0x740B7020 ∧ returns 0x008 .param1 param1 ∧
    (s.cfg.chkCap ≤ 65535 → returns 0x00C .chkCapr chkCapr) ∧
    ∀ (off : Offset) (data : Word), off.toNat ∈ [0x000, 0x004, 0x008, 0x00C] →
      busWrite ⟨off, .four, data⟩ s = .next (s.rejected .access (accessInfo ⟨off, .four, data⟩))

/-! ## Reset -/

/-- SOFT_RESET and the reset input force every register to its reset value, discard the job, drive irq to 0 and leave
CW alone, from every state, a busy one too (10_state R54, 44_control R211, 70_reset R270, R272). The word must be exact:
on an idle block any other word with its opcode raises RSVD_ARG, on a busy one BUSY. -/
def Obligations.ResetForcesEveryRegister : Prop :=
  ∀ s : State,
    let t : State := { s with
      ctrl := 0, status := Status.reset, errInfo := 0, encPad := 0, encCount := 0,
      parity := Vector.replicate 32 0, gfA := 0, gfB := 0, gfR := 0, syn := Vector.replicate 32 0,
      decNerr := 0, errLoc := Vector.replicate 16 0, chkMax := 64, chkSum := 0, chkId := 0, chkLen := 0,
      chkCount := 0, chkTrailer := 0, job := none, irq := false }
    exec .softReset s = .next t ∧ runTurn .reset s = .next t ∧
    (s.ready → reservedBitsRejected 0x01 0xFFFFFF00 s) ∧
    (s.status.busy = true → ∀ w : Word, opcOf w = 0x01 → w ≠ 0x00000001 →
      busWrite (commandWrite w) s = .next (s.rejected .busy (accessInfo (commandWrite w))))

/-- Right after power-up no byte of CW is written, and every one reads as a free value (70_reset R271); the statement
holds for every value of `Config.powerUpByte`. Every register of the state after a power-up turn has the value it has at
`State.reset`, whose fields are those of 10_state R54. -/
def Obligations.PowerUpLeavesBufferUnspecified : Prop :=
  ∀ s : State, ∃ t, runTurn .powerUp s = .next t ∧
    t = { State.reset with
      cfg := s.cfg, agenda := s.agenda, rdata := s.rdata, draws := s.draws, powerUps := s.powerUps + 1 } ∧
    ∀ k : Nat, t.cwByte k = Config.powerUpByte (s.powerUps + 1) k

/-! ## Control and register writes -/

/-- NOP does nothing (44_control R210), but that irq has the value of its formula. -/
def Obligations.NopHasNoEffect : Prop :=
  ∀ s : State, s.ready →
    exec .nop s = .next { s with irq := irqLevel s.ctrl s.status } ∧ reservedBitsRejected 0x00 0xFFFFFF00 s

/-- WR_CTRL stores `data[2:0]`, bit 2 forced to 0 without the validator, and irq is recomputed (44_control R213). -/
def Obligations.CtrlWriteStoresThreeBits : Prop :=
  ∀ (data : Word) (s : State), s.ready →
    ∃ t, exec (.wrCtrl data) s = .next t ∧ t = { s with ctrl := t.ctrl, irq := irqLevel t.ctrl s.status } ∧
      t.ctrl.getLsbD 0 = data.getLsbD 0 ∧ t.ctrl.getLsbD 1 = data.getLsbD 1 ∧
      t.ctrl.getLsbD 2 = (s.cfg.hasChk && data.getLsbD 2)

/-- WR_GF_A, WR_GF_B and WR_GF_R store `data[7:0]`, start nothing, and change nothing else (44_control R214). -/
def Obligations.GfRegisterWritesStoreLowByte : Prop :=
  ∀ (data : Word) (s : State), s.ready →
    let d := BitVec.ofNat 8 (data.toNat % 256)
    exec (.wrGfA data) s = .next { s with gfA := d, irq := irqLevel s.ctrl s.status } ∧
    exec (.wrGfB data) s = .next { s with gfB := d, irq := irqLevel s.ctrl s.status } ∧
    exec (.wrGfR data) s = .next { s with gfR := d, irq := irqLevel s.ctrl s.status }

/-- WR_CW stores `data[7:0]` in CW[k]; every other byte of CW, every register and every status bit stay (44_control
R215). The index 255 is no byte of CW: its offset 0x7FC is unmapped, and a write there raises ACCESS (20_memory R64). That
the term of index 255, which stands for no instruction, answers the same is the model's choice (log 9, DEDUCED). -/
def Obligations.CwWriteStoresOneByte : Prop :=
  ∀ (k : Byte) (data : Word) (s : State), s.ready →
    (k ≠ 255 → ∃ t, exec (.wrCw k data) s = .next t ∧
      t.cwByte k.toNat = BitVec.ofNat 8 (data.toNat % 256) ∧
      (∀ j : Nat, j ≠ k.toNat → t.cwByte j = s.cwByte j) ∧
      t = { s with cw := t.cw, irq := irqLevel s.ctrl s.status }) ∧
    (k = 255 →
      busWrite ⟨0x7FC, .four, data⟩ s = .next (s.rejected .access (accessInfo ⟨0x7FC, .four, data⟩)) ∧
      exec (.wrCw k data) s = .next (s.rejected .access (accessInfo (encode (.wrCw k data)))))

/-! ## The GF(256) arithmetic unit -/

/-- The eight GF commands do what their pseudocode says, write GF_R only, and raise DIV0 and RSVD_ARG as it says
(40_gf_arith R108 to R115). -/
def Obligations.GfCommandsComputeTheirPseudocode : Prop :=
  ∀ s : State, s.ready →
    let result (r : Byte) : Result := .next { s with gfR := r, irq := irqLevel s.ctrl s.status }
    exec .gfAdd s = result (s.gfA ^^^ s.gfB) ∧
    exec .gfMul s = result (gmul s.rom s.gfA s.gfB) ∧
    (s.gfB ≠ 0 → exec .gfDiv s = result (gdiv s.rom s.gfA s.gfB)) ∧
    (s.gfB = 0 → exec .gfDiv s = .next (s.rejected .div0 0x00000022)) ∧
    (s.gfA ≠ 0 → exec .gfInv s = result (ginv s.rom s.gfA)) ∧
    (s.gfA = 0 → exec .gfInv s = .next (s.rejected .div0 0x00000023)) ∧
    exec .gfExp s = result (s.rom.alpha s.gfA) ∧
    exec .gfLog s = result (s.rom.index s.gfA) ∧
    exec .gfMac s = result (s.gfR ^^^ gmul s.rom s.gfA s.gfB) ∧
    exec .gfHorner s = result (gmul s.rom s.gfR s.gfB ^^^ s.gfA) ∧
    ∀ opc : Byte, 0x20 ≤ opc → opc ≤ 0x27 → reservedBitsRejected opc 0xFFFFFF00 s

/-- GF_HORNER, one step, and a whole evaluation: starting from GF_R = 0, GF_A loaded and the command issued once per
coefficient, highest degree first, leave in GF_R the sum of the `c_i * B^i`, and only GF_A, GF_R and irq changed
(40_gf_arith R115); the powers and products are those of the field, for every primitive FIELD_POLY. -/
def Obligations.HornerEvaluatesPolynomials : Prop :=
  ∀ s : State, s.ready →
    (exec .gfHorner s =
      .next { s with gfR := gmul s.rom s.gfR s.gfB ^^^ s.gfA, irq := irqLevel s.ctrl s.status }) ∧
    reservedBitsRejected 0x27 0xFFFFFF00 s ∧
    ∀ coefficients : List Byte, isPrimitive s.cfg.fieldPoly = true → s.gfR = 0 →
      ∃ t, execAll (coefficients.flatMap fun c => [.wrGfA (c.setWidth 32), .gfHorner]) s = .next t ∧
        t.gfR = wordValue s.cfg.fieldPoly s.gfB coefficients ∧
        t = { s with gfA := t.gfA, gfR := t.gfR, irq := t.irq }

/-- The tables of every primitive FIELD_POLY: `alpha_to[e] = alpha^e` up to 254, `index_of` is its inverse, and the
sentinel 255 stands for the zero element (40_gf_arith R101). -/
def Obligations.TablesArePowersOfAlpha : Prop :=
  ∀ p : BitVec 9, isPrimitive p = true →
    (∀ e < 255, (romOf p).alpha (BitVec.ofNat 8 e) = alphaPow p e ∧
      (romOf p).index (alphaPow p e) = BitVec.ofNat 8 e) ∧
    (romOf p).alpha 255 = 0 ∧ (romOf p).index 0 = 255 ∧ alphaPow p 255 = 1

/-- `gmul` is multiplication of polynomials modulo F(x), for every primitive FIELD_POLY (40_gf_arith R100, R105). -/
def Obligations.TableProductIsFieldProduct : Prop :=
  ∀ (p : BitVec 9) (a b : Byte), isPrimitive p = true → gmul (romOf p) a b = fieldMul p a b

/-- The laws of the field operations, for every primitive FIELD_POLY and all symbols (40_gf_arith R116). -/
def Obligations.FieldLaws : Prop :=
  ∀ (p : BitVec 9) (a b c : Byte), isPrimitive p = true →
    let rom := romOf p
    a ^^^ a = 0 ∧ gmul rom a b = gmul rom b a ∧ gmul rom (gmul rom a b) c = gmul rom a (gmul rom b c) ∧
    gmul rom a (b ^^^ c) = gmul rom a b ^^^ gmul rom a c ∧ gmul rom a 1 = a ∧ gmul rom a 0 = 0 ∧
    (a ≠ 0 → gmul rom a (ginv rom a) = 1) ∧ (b ≠ 0 → gdiv rom a b = gmul rom a (ginv rom b)) ∧
    rom.alpha (rom.index a) = a ∧ rom.index (rom.alpha a) = a

/-- The generator polynomial: `poly` is its index form, it is monic of degree 32, and its roots are exactly the
`alpha^(PRIM*(FCR+i))` for i = 0..31 (40_gf_arith R102). -/
def Obligations.GeneratorHasTheCodesRoots : Prop :=
  ∀ p : BitVec 9, isPrimitive p = true →
    let rom := romOf p
    let g := generator rom
    g.length = 33 ∧ g.getD 32 0 = 1 ∧ (∀ i : Fin 33, rom.poly[i] = rom.index (g.getD i.val 0)) ∧
    ∀ z : Byte, polyEval rom g z = 0 ↔ ∃ i < 32, z = alphaPow p (11 * (112 + i) % 255)

/-! ## The encoder -/

/-- ENC_INIT (41_encoder R144): opens a streaming encode for a pad up to 223, from any ENC_ACTIVE; BAD_PAD above. -/
def Obligations.EncInitOpensEncode : Prop :=
  ∀ (pad : Byte) (s : State), s.ready →
    let st : Status := { s.status with encActive := true, pvalid := false }
    (pad.toNat ≤ 223 → exec (.encInit pad) s = .next { s with
      parity := Vector.replicate 32 0, encPad := pad, encCount := 0, status := st, irq := irqLevel s.ctrl st }) ∧
    (pad.toNat > 223 → exec (.encInit pad) s = .next (s.rejected .badPad (encode (.encInit pad)).data)) ∧
    reservedBitsRejected 0x10 0xFFFF0000 s

/-- ENC_DATA (41_encoder R145): NOT_ACTIVE without an open encode, LENGTH after the last byte, else one encoder step and
one more byte counted. -/
def Obligations.EncDataFeedsOneByte : Prop :=
  ∀ (data : Word) (s : State), s.ready →
    (s.status.encActive = false →
      exec (.encData data) s = .next (s.rejected .notActive (accessInfo ⟨0x020, .four, data⟩))) ∧
    (s.status.encActive = true → s.encCount.toNat = 223 - s.encPad.toNat →
      exec (.encData data) s = .next (s.rejected .length (accessInfo ⟨0x020, .four, data⟩))) ∧
    (s.status.encActive = true → s.encCount.toNat ≠ 223 - s.encPad.toNat →
      exec (.encData data) s = .next { s with
        parity := encStep s.rom s.parity (BitVec.ofNat 8 (data.toNat % 256)), encCount := s.encCount + 1,
        irq := irqLevel s.ctrl s.status })

/-- ENC_FINISH (41_encoder R146): NOT_ACTIVE, then LENGTH with the encode left open, else the encode closes and PARITY is
valid. -/
def Obligations.EncFinishClosesEncode : Prop :=
  ∀ s : State, s.ready →
    let st : Status := { s.status with encActive := false, pvalid := true }
    (s.status.encActive = false → exec .encFinish s = .next (s.rejected .notActive 0x00000011)) ∧
    (s.status.encActive = true → s.encCount.toNat ≠ 223 - s.encPad.toNat →
      exec .encFinish s = .next (s.rejected .length 0x00000011)) ∧
    (s.status.encActive = true → s.encCount.toNat = 223 - s.encPad.toNat →
      exec .encFinish s = .next { s with status := st, irq := irqLevel s.ctrl st }) ∧
    reservedBitsRejected 0x11 0xFFFFFF00 s

/-- The acceptance of the three jobs (41_encoder R147, 42_syndrome_decoder R162, R165): JOB and BUSY are set, DONE and
the job's own flags are cleared, and nothing else changes but irq; BAD_PAD above 223. -/
def Obligations.JobsAreAccepted : Prop :=
  ∀ (pad : Byte) (s : State), s.ready →
    let enc : Status := { s.status with busy := true, done := false, encActive := false, pvalid := false }
    let syn : Status := { s.status with busy := true, done := false, synZero := false }
    let dec : Status := { s.status with busy := true, done := false, synZero := false, decFail := false }
    (pad.toNat ≤ 223 →
      exec (.encBlock pad) s =
        .next { s with job := some (.encBlock pad), status := enc, irq := irqLevel s.ctrl enc } ∧
      exec (.synCalc pad) s =
        .next { s with job := some (.synCalc pad), status := syn, irq := irqLevel s.ctrl syn } ∧
      exec (.decCorrect pad) s =
        .next { s with job := some (.decCorrect pad), status := dec, irq := irqLevel s.ctrl dec }) ∧
    (pad.toNat > 223 →
      exec (.encBlock pad) s = .next (s.rejected .badPad (encode (.encBlock pad)).data) ∧
      exec (.synCalc pad) s = .next (s.rejected .badPad (encode (.synCalc pad)).data) ∧
      exec (.decCorrect pad) s = .next (s.rejected .badPad (encode (.decCorrect pad)).data)) ∧
    reservedBitsRejected 0x12 0xFFFF0000 s ∧ reservedBitsRejected 0x30 0xFFFF0000 s ∧
    reservedBitsRejected 0x31 0xFFFF0000 s

/-- The encoder step, lane by lane (41_encoder R141): lane j takes the XORed lane j + 1, and the last lane the new
term. -/
def Obligations.EncoderStepLanes : Prop :=
  ∀ (rom : Rom) (parity : Vector Byte 32) (d : Byte),
    let feedback := rom.index (d ^^^ parity[0])
    let term (c : Byte) : Byte :=
      if feedback = Config.a0 then 0 else rom.alpha (BitVec.ofNat 8 ((feedback.toNat + c.toNat) % 255))
    (∀ j : Fin 31, (encStep rom parity d)[j.val] = parity[j.val + 1] ^^^ term rom.poly[31 - j.val]) ∧
    (encStep rom parity d)[31] = term rom.poly[0]

/-- ENC_BLOCK, completion (41_encoder R148): the parity of CW[pad..222] goes to PARITY and to CW[223..254]; no other
byte of CW changes; ENC_PAD, ENC_COUNT, PVALID, DONE, BUSY and JOB as stated, and no other register but irq. -/
def Obligations.EncBlockCompletion : Prop :=
  ∀ (pad : Byte) (s : State), s.job = some (.encBlock pad) → pad.toNat ≤ 223 →
    let message := (List.range (223 - pad.toNat)).map fun m => s.cwByte (pad.toNat + m)
    let parity := message.foldl (encStep s.rom) (Vector.replicate 32 0)
    let st : Status := { s.status with pvalid := true, busy := false, done := true }
    ∃ t, runTurn .engine s = .next t ∧
      t = { s with
        parity := parity, cw := t.cw, encPad := pad, encCount := BitVec.ofNat 8 (223 - pad.toNat),
        status := st, job := none, irq := irqLevel s.ctrl st } ∧
      (∀ j : Fin 32, t.cwByte (223 + j.val) = parity[j]) ∧
      ∀ k : Nat, k < 223 ∨ 254 < k → t.cwByte k = s.cwByte k

/-- A zero message byte on a zero accumulator leaves it zero, so shortening by a pad gives the parity of the message with
that many zero bytes in front (41_encoder R143), for every primitive FIELD_POLY. -/
def Obligations.ShorteningIsLeadingZeros : Prop :=
  ∀ (p : BitVec 9) (pad : Nat) (message : List Byte), isPrimitive p = true →
    encStep (romOf p) (Vector.replicate 32 0) 0 = Vector.replicate 32 0 ∧
    parityOf (romOf p) (List.replicate pad 0 ++ message) = parityOf (romOf p) message

/-- A complete streaming encode (41_encoder R149): from any idle state, ENC_INIT, the message bytes and ENC_FINISH leave
in PARITY, valid, the parity that depends on the message alone, the same that ENC_BLOCK computes; ENC_PAD, ENC_COUNT and
the two encoder flags are as stated, irq has the value of its formula, and everything else stays. -/
def Obligations.StreamingEncodeDependsOnMessageOnly : Prop :=
  ∀ (pad : Byte) (message : List Byte) (s : State), s.ready → pad.toNat ≤ 223 →
    message.length = 223 - pad.toNat →
    let st : Status := { s.status with encActive := false, pvalid := true }
    execAll (.encInit pad :: message.map (fun d => .encData (d.setWidth 32)) ++ [.encFinish]) s =
      .next { s with
        parity := message.foldl (encStep s.rom) (Vector.replicate 32 0), encPad := pad,
        encCount := BitVec.ofNat 8 (223 - pad.toNat), status := st, irq := irqLevel s.ctrl st }

/-- Every message followed by its 32 parity bytes is a codeword: all 32 syndromes are zero, for every primitive
FIELD_POLY (41_encoder R142, R150, 42_syndrome_decoder R161). -/
def Obligations.EncodedMessagesAreCodewords : Prop :=
  ∀ (p : BitVec 9) (pad : Nat) (message : List Byte), isPrimitive p = true → pad ≤ 223 →
    message.length = 223 - pad →
    inCode (romOf p) pad (message ++ (parityOf (romOf p) message).toList)

/-! ## The syndrome calculator and the corrector -/

/-- The syndrome computed by Horner's rule is the received polynomial, the sum of `CW[k] * r^(254-k)`, at the root, for
every primitive FIELD_POLY (42_syndrome_decoder R160, R161). -/
def Obligations.SyndromesArePolynomialValues : Prop :=
  ∀ (p : BitVec 9) (word : List Byte) (i : Nat), isPrimitive p = true →
    syndrome (romOf p) word i = wordValue p (alphaPow p (11 * (112 + i) % 255)) word

/-- SYN_CALC, completion (42_syndrome_decoder R163): SYN holds the syndromes of CW[pad..254], SYN_ZERO says whether all
are zero, CW is only read, and nothing else changes but DONE, BUSY, JOB and irq. -/
def Obligations.SynCalcCompletion : Prop :=
  ∀ (pad : Byte) (s : State), s.job = some (.synCalc pad) →
    let word := (List.range (255 - pad.toNat)).map fun m => s.cwByte (pad.toNat + m)
    ∃ t, runTurn .engine s = .next t ∧
      (∀ i : Fin 32, t.syn[i] = syndrome s.rom word i.val) ∧
      (t.status.synZero = true ↔ ∀ i < 32, syndrome s.rom word i = 0) ∧
      t = { s with
        syn := t.syn, job := none, irq := irqLevel s.ctrl t.status,
        status := { s.status with synZero := t.status.synZero, busy := false, done := true } }

/-- DEC_CORRECT, completion (42_syndrome_decoder R166), in terms of the codeword that the corrector finds: CW[pad..254]
becomes that codeword and no other byte changes, DEC_NERR counts the changed symbols, ERRLOC lists them in ascending
order and 0 after them; with none found CW is unchanged and DEC_FAIL is set. SYN holds the syndromes of the word as
received. -/
def Obligations.DecCorrectCompletion : Prop :=
  ∀ (pad : Byte) (s : State), s.job = some (.decCorrect pad) → pad.toNat ≤ 223 →
    let word := (List.range (255 - pad.toNat)).map fun m => s.cwByte (pad.toNat + m)
    ∃ t, runTurn .engine s = .next t ∧
      (∀ i : Fin 32, t.syn[i] = syndrome s.rom word i.val) ∧
      (t.status.synZero = true ↔ ∀ i < 32, syndrome s.rom word i = 0) ∧
      (∀ c, decodeWord s.rom pad.toNat word = some c →
        (∀ k : Nat, t.cwByte k =
          if pad.toNat ≤ k ∧ k ≤ 254 then c.getD (k - pad.toNat) 0 else s.cwByte k) ∧
        t.status.decFail = false ∧ t.decNerr.toNat = distance word c ∧
        (∀ k : Nat, pad.toNat ≤ k → k ≤ 254 → (c.getD (k - pad.toNat) 0 ≠ s.cwByte k ↔
          ∃ n : Fin 16, n.val < t.decNerr.toNat ∧ t.errLoc[n].toNat = k)) ∧
        (∀ m n : Fin 16, m < n → n.val < t.decNerr.toNat → t.errLoc[m] < t.errLoc[n]) ∧
        ∀ n : Fin 16, t.decNerr.toNat ≤ n.val → t.errLoc[n] = 0) ∧
      (decodeWord s.rom pad.toNat word = none →
        t.cw = s.cw ∧ t.status.decFail = true ∧ t.decNerr = 0 ∧ t.errLoc = Vector.replicate 16 0) ∧
      t = { s with
        syn := t.syn, cw := t.cw, decNerr := t.decNerr, errLoc := t.errLoc, job := none,
        irq := irqLevel s.ctrl t.status,
        status := { s.status with
          synZero := t.status.synZero, decFail := t.status.decFail, busy := false, done := true } }

/-- What the corrector answers is a codeword of `C(pad)` within distance 16 of the received word (42_syndrome_decoder
R166), for any word of the right length. -/
def Obligations.CorrectorAnswersNearbyCodewords : Prop :=
  ∀ (rom : Rom) (pad : Nat) (word c : List Byte), word.length = 255 - pad →
    decodeWord rom pad word = some c → inCode rom pad c ∧ distance word c ≤ 16

/-- Two different codewords of `C(pad)` differ in at least 33 positions, for every primitive FIELD_POLY, so at most one
is within distance 16 of any word (42_syndrome_decoder R164, 93 G5). -/
def Obligations.CodewordsAreFarApart : Prop :=
  ∀ (p : BitVec 9) (pad : Nat) (c c' : List Byte), isPrimitive p = true → pad ≤ 223 →
    inCode (romOf p) pad c → inCode (romOf p) pad c' → c ≠ c' → 33 ≤ distance c c'

/-- The corrector's contract (42_syndrome_decoder R166): whenever a codeword of `C(pad)` lies within distance 16 of the
received word, the corrector answers it, so up to 16 symbol errors are corrected; for every primitive FIELD_POLY. The
reference algorithm of R167 to R169 thus meets the contract. -/
def Obligations.CorrectorFindsEveryNearbyCodeword : Prop :=
  ∀ (p : BitVec 9) (pad : Nat) (word c : List Byte), isPrimitive p = true → pad ≤ 223 →
    word.length = 255 - pad → inCode (romOf p) pad c → distance word c ≤ 16 →
    decodeWord (romOf p) pad word = some c

/-! ## The checksum validator -/

/-- CHK_INIT (43_checksum R192): opens a package, from any state of the validator; CHK_MAX stays. -/
def Obligations.ChkInitOpensPackage : Prop :=
  ∀ s : State, s.ready → s.cfg.hasChk = true →
    let st : Status := { s.status with chkActive := true, chkRes := .none, chkEchoMatch := false }
    exec .chkInit s = .next { s with
      chkCount := 0, chkSum := 0, chkId := 0, chkLen := 0, chkTrailer := 0, status := st,
      irq := irqLevel s.ctrl st } ∧
    reservedBitsRejected 0x40 0xFFFFFF00 s

/-- CHK_SETMAX (43_checksum R198): SIZE above CHK_CAP with CHK_MAX unchanged, else CHK_MAX is the size, at any time and
for any size down to 0. -/
def Obligations.ChkSetmaxBoundsSize : Prop :=
  ∀ (size : BitVec 16) (s : State), s.ready → s.cfg.hasChk = true →
    (size.toNat ≤ s.cfg.chkCap →
      exec (.chkSetmax size) s = .next { s with chkMax := size, irq := irqLevel s.ctrl s.status }) ∧
    (size.toNat > s.cfg.chkCap →
      exec (.chkSetmax size) s = .next (s.rejected .size (encode (.chkSetmax size)).data)) ∧
    reservedBitsRejected 0x41 0x0000FF00 s

/-- CHK_DATA (43_checksum R193, R194, R196, R197, R199): NOT_ACTIVE without an open package, else what the byte at its
position does: ID, length (with the size guard after its high byte), payload, checksum byte, and echo byte with the
verdict. The words written are given as numbers. -/
def Obligations.ChkDataFeedsOneByte : Prop :=
  ∀ (data : Word) (s : State), s.ready → s.cfg.hasChk = true →
    let d := BitVec.ofNat 8 (data.toNat % 256)
    let n := s.chkCount.toNat
    let len := s.chkLen.toNat
    let summed : State := { s with
      chkSum := s.chkSum + d, chkCount := s.chkCount + 1, irq := irqLevel s.ctrl s.status }
    (s.status.chkActive = false →
      exec (.chkData data) s = .next (s.rejected .notActive (accessInfo ⟨0x040, .four, data⟩))) ∧
    (s.status.chkActive = true →
      (n = 0 → exec (.chkData data) s =
        .next { summed with chkId := BitVec.ofNat 16 (s.chkId.toNat / 256 * 256 + d.toNat) }) ∧
      (n = 1 → exec (.chkData data) s =
        .next { summed with chkId := BitVec.ofNat 16 (d.toNat * 256 + s.chkId.toNat % 256) }) ∧
      (n = 2 → exec (.chkData data) s =
        .next { summed with chkLen := BitVec.ofNat 16 (len / 256 * 256 + d.toNat) }) ∧
      (n = 3 →
        let newLen := d.toNat * 256 + len % 256
        let st : Status := { s.status with chkRes := .sizeExceeded, chkActive := false }
        (4 + newLen + 2 ≤ s.chkMax.toNat →
          exec (.chkData data) s = .next { summed with chkLen := BitVec.ofNat 16 newLen }) ∧
        (4 + newLen + 2 > s.chkMax.toNat →
          exec (.chkData data) s = .next { summed with
            chkLen := BitVec.ofNat 16 newLen, status := st, irq := irqLevel s.ctrl st })) ∧
      (4 ≤ n → n ≤ 3 + len → exec (.chkData data) s = .next summed) ∧
      (n = 4 + len → exec (.chkData data) s =
        .next { summed with
          chkSum := s.chkSum, chkTrailer := BitVec.ofNat 16 (s.chkTrailer.toNat / 256 * 256 + d.toNat) }) ∧
      (n = 5 + len →
        let chk := BitVec.ofNat 8 (s.chkTrailer.toNat % 256)
        let st : Status := { s.status with
          chkEchoMatch := d == chk
          chkRes := if s.cfg.compareMode = .self ∨ s.chkSum = chk then .pass else .checksumFailure
          chkActive := false }
        exec (.chkData data) s = .next { summed with
          chkSum := s.chkSum, chkTrailer := BitVec.ofNat 16 (d.toNat * 256 + s.chkTrailer.toNat % 256),
          status := st, irq := irqLevel s.ctrl st }))

/-- A whole package (43_checksum R190, R191, R196): from an idle block with the validator, CHK_INIT and the bytes of a
package whose total fits CHK_MAX leave its ID, length, count and sum, and PASS exactly when the additive sum of header and
payload equals the checksum byte (or always, in SELF mode); the echo byte decides CHK_ECHO_MATCH only. -/
def Obligations.WholePackageVerdict : Prop :=
  ∀ (s : State) (idLow idHigh lenLow lenHigh : Byte) (payload : List Byte) (checksum echo : Byte),
    s.ready → s.cfg.hasChk = true → payload.length = lenLow.toNat + 256 * lenHigh.toNat →
    4 + payload.length + 2 ≤ s.chkMax.toNat →
    let bytes := packageBytes idLow idHigh lenLow lenHigh payload checksum echo
    let sum := byteSum ([idLow, idHigh, lenLow, lenHigh] ++ payload)
    ∃ t, execAll (.chkInit :: bytes.map fun d => .chkData (d.setWidth 32)) s = .next t ∧
      t.chkId.toNat = idLow.toNat + 256 * idHigh.toNat ∧ t.chkLen.toNat = payload.length ∧
      t.chkCount.toNat = 4 + payload.length + 2 ∧ t.chkSum = sum ∧ t.chkMax = s.chkMax ∧
      t.status.chkActive = false ∧ t.status.chkEchoMatch = (echo == checksum) ∧
      t.status.chkRes =
        (if s.cfg.compareMode = .self ∨ sum = checksum then .pass else .checksumFailure) ∧
      t.status.err = s.status.err

/-- Without the validator (10_state R53): its offsets are unmapped, its opcodes are illegal, CHK_CAPR and PARAM1.HAS_CHK
read 0, STATUS[10:7] reads 0, and a write to CTRL leaves IE_CHK 0. -/
def Obligations.ValidatorAbsent : Prop :=
  ∀ s : State, s.cfg.hasChk = false →
    (∀ off : Offset, 0x040 ≤ off.toNat → off.toNat ≤ 0x058 →
      (∀ size, (busRead off size s).rdata = some 0) ∧
      ∀ size data, busWrite ⟨off, size, data⟩ s = .next (s.rejected .access (accessInfo ⟨off, size, data⟩))) ∧
    (∀ w : Word, opcOf w = 0x40 ∨ opcOf w = 0x41 → s.ready →
      busWrite (commandWrite w) s = .next (s.rejected .badOpcode w)) ∧
    regValue s .chkCapr = 0 ∧ (regValue s .param1).getLsbD 25 = false ∧
    (regValue s .status).extractLsb' 7 4 = 0 ∧
    ∀ (data : Word) (t : State), s.ready → exec (.wrCtrl data) s = .next t → t.ctrl.getLsbD 2 = false

/-! ## Frames -/

/-- The frame of the GF commands and of the writes to CTRL and the GF registers, in every state: only GF_R (or the
register written), the error record, and irq may change; an error leaves the register too. Every byte of CW reads as
before (40_gf_arith §3, 44_control R213, R214, 60_exceptions R240). -/
def Obligations.FrameOfRegisterInstructions : Prop :=
  ∀ (i : Instr) (s t : State), exec i s = .next t →
    (i ∈ [.gfAdd, .gfMul, .gfDiv, .gfInv, .gfExp, .gfLog, .gfMac, .gfHorner] →
      t = { s with gfR := t.gfR, status := t.status, errInfo := t.errInfo, irq := t.irq } ∧
      sameStatusButError s.status t.status ∧ sameBuffer s t) ∧
    (∀ data, i ∈ [.wrGfA data, .wrGfB data, .wrGfR data, .wrCtrl data] →
      t = { s with
        gfA := if i = .wrGfA data then t.gfA else s.gfA
        gfB := if i = .wrGfB data then t.gfB else s.gfB
        gfR := if i = .wrGfR data then t.gfR else s.gfR
        ctrl := if i = .wrCtrl data then t.ctrl else s.ctrl
        status := t.status, errInfo := t.errInfo, irq := t.irq } ∧
      sameStatusButError s.status t.status ∧ sameBuffer s t)

/-- The frame of the encoder's streaming instructions and of the three job acceptances, in every state: PARITY, ENC_PAD
and ENC_COUNT only by ENC_INIT and ENC_DATA, JOB only by a job's acceptance, STATUS only in the flags that the rules name,
and every byte of CW reads as before (41_encoder R144 to R147, 42_syndrome_decoder R162, R165). -/
def Obligations.FrameOfEncoderAndJobInstructions : Prop :=
  ∀ (i : Instr) (s t : State), exec i s = .next t →
    (∀ pad data, i ∈ [.encInit pad, .encData data, .encFinish] →
      t = { s with
        parity := if i = .encFinish then s.parity else t.parity
        encPad := if i = .encInit pad then t.encPad else s.encPad
        encCount := if i = .encFinish then s.encCount else t.encCount
        status := t.status, errInfo := t.errInfo, irq := t.irq } ∧
      t.status = { s.status with
        err := t.status.err, errCode := t.status.errCode
        encActive := if i = .encData data then s.status.encActive else t.status.encActive
        pvalid := if i = .encData data then s.status.pvalid else t.status.pvalid } ∧
      sameBuffer s t) ∧
    (∀ pad, i ∈ [.encBlock pad, .synCalc pad, .decCorrect pad] →
      t = { s with job := t.job, status := t.status, errInfo := t.errInfo, irq := t.irq } ∧
      t.status = { s.status with
        busy := t.status.busy, done := t.status.done, err := t.status.err, errCode := t.status.errCode
        encActive := if i = .encBlock pad then t.status.encActive else s.status.encActive
        pvalid := if i = .encBlock pad then t.status.pvalid else s.status.pvalid
        synZero := if i = .encBlock pad then s.status.synZero else t.status.synZero
        decFail := if i = .decCorrect pad then t.status.decFail else s.status.decFail } ∧
      sameBuffer s t)

/-- The frame of the validator's instructions, of NOP and of CLR_STATUS, in every state: only the validator's registers
and flags and the error record change, CHK_MAX only by CHK_SETMAX, and every byte of CW reads as before (43_checksum R192,
R193, R198, 44_control R210, R212). -/
def Obligations.FrameOfValidatorAndStatusInstructions : Prop :=
  ∀ (i : Instr) (s t : State), exec i s = .next t →
    (∀ data, i ∈ [.chkInit, .chkData data] →
      t = { s with
        chkSum := t.chkSum, chkId := t.chkId, chkLen := t.chkLen, chkCount := t.chkCount,
        chkTrailer := t.chkTrailer, status := t.status, errInfo := t.errInfo, irq := t.irq } ∧
      t.status = { s.status with
        err := t.status.err, errCode := t.status.errCode, chkActive := t.status.chkActive,
        chkRes := t.status.chkRes, chkEchoMatch := t.status.chkEchoMatch } ∧
      sameBuffer s t) ∧
    (∀ size, i = .chkSetmax size →
      t = { s with chkMax := t.chkMax, status := t.status, errInfo := t.errInfo, irq := t.irq } ∧
      sameStatusButError s.status t.status ∧ sameBuffer s t) ∧
    (∀ mask, i ∈ [.nop, .clrStatus mask] →
      t = { s with status := t.status, errInfo := t.errInfo, irq := t.irq } ∧
      t.status = { s.status with
        err := t.status.err, errCode := t.status.errCode
        done := if i = .nop then s.status.done else t.status.done
        chkRes := if i = .nop then s.status.chkRes else t.status.chkRes
        chkEchoMatch := if i = .nop then s.status.chkEchoMatch else t.status.chkEchoMatch } ∧
      sameBuffer s t)

/-- The frame of WR_CW, the one instruction that stores to CW, in every state, busy ones too: every byte but CW[k] reads
as before, and no register or status bit changes but the error record and irq (44_control R215). -/
def Obligations.FrameOfCwWrite : Prop :=
  ∀ (k : Byte) (data : Word) (s t : State), exec (.wrCw k data) s = .next t →
    t = { s with cw := t.cw, status := t.status, errInfo := t.errInfo, irq := t.irq } ∧
    sameStatusButError s.status t.status ∧
    ∀ j : Nat, j ≠ k.toNat → t.cwByte j = s.cwByte j

/-- The frame of an engine completion (60_exceptions R252): JOBSET, STATUS, JOB and irq only, and it never raises an
error (60_exceptions R240). -/
def Obligations.FrameOfEngineCompletion : Prop :=
  ∀ s t : State, runTurn .engine s = .next t →
    t = { s with
      cw := t.cw, parity := t.parity, syn := t.syn, errLoc := t.errLoc, decNerr := t.decNerr,
      encPad := t.encPad, encCount := t.encCount, status := t.status, job := none, irq := t.irq } ∧
    t.status.err = s.status.err ∧ t.status.errCode = s.status.errCode ∧
    (∀ pad, s.job = some (.synCalc pad) → t.cw = s.cw)

/-! ## The whole machine -/

/-- No step changes the parameters, and so the ROM tables are never written (10_state R51). -/
def Obligations.RomIsNeverWritten : Prop :=
  ∀ s t : State, step s = .next t → t.cfg = s.cfg ∧ t.rom = s.rom

/-- In a step CHK_MAX changes only by a CHK_SETMAX instruction, to its size, or by SOFT_RESET, the reset input or a
power-up, to its reset value 64 (10_state R40, R54, 70_reset R270). -/
def Obligations.OnlySetmaxAndResetChangeChkMax : Prop :=
  ∀ s t : State, step s = .next t → t.chkMax ≠ s.chkMax →
    ∃ (turn : Turn) (rest : List Turn), s.agenda = turn :: rest ∧
      ((turn ∈ [s.hostWrite (encode .softReset), .reset, .powerUp] ∧ t.chkMax = 64) ∨
       ∃ size : BitVec 16, turn = s.hostWrite (encode (.chkSetmax size)) ∧ t.chkMax = size)

/-- The reset state meets the invariant. -/
def Obligations.ResetMeetsInvariant : Prop := State.reset.Inv

/-- Every step keeps the invariant, whichever agent moves: the codeword buffer stays canonical, BUSY says whether a job is
pending, irq follows its formula, the message, the package and the corrections stay within their bounds, PVALID means a
complete message, and the error record is there exactly while ERR = 1 (10_state R30, R35, R38, R40, R44, R48, R50, R53,
60_exceptions R241, R245). -/
def Obligations.StepKeepsInvariant : Prop := ∀ s t : State, s.Inv → step s = .next t → t.Inv
end

