-- ==== Sys2Proof/Laws/State.lean ====
section
/-! SUPPORT. One lemma for each field of State and each shared update, so that later proofs unfold no record update. -/

namespace Sys2Proof.Machine

/-! ## irq recomputed -/

@[simp] theorem State.settleIrq_cfg (s : State) : (s.settleIrq).cfg = s.cfg := rfl
@[simp] theorem State.settleIrq_ctrl (s : State) : (s.settleIrq).ctrl = s.ctrl := rfl
@[simp] theorem State.settleIrq_status (s : State) : (s.settleIrq).status = s.status := rfl
@[simp] theorem State.settleIrq_errInfo (s : State) : (s.settleIrq).errInfo = s.errInfo := rfl
@[simp] theorem State.settleIrq_encPad (s : State) : (s.settleIrq).encPad = s.encPad := rfl
@[simp] theorem State.settleIrq_encCount (s : State) : (s.settleIrq).encCount = s.encCount := rfl
@[simp] theorem State.settleIrq_parity (s : State) : (s.settleIrq).parity = s.parity := rfl
@[simp] theorem State.settleIrq_gfA (s : State) : (s.settleIrq).gfA = s.gfA := rfl
@[simp] theorem State.settleIrq_gfB (s : State) : (s.settleIrq).gfB = s.gfB := rfl
@[simp] theorem State.settleIrq_gfR (s : State) : (s.settleIrq).gfR = s.gfR := rfl
@[simp] theorem State.settleIrq_syn (s : State) : (s.settleIrq).syn = s.syn := rfl
@[simp] theorem State.settleIrq_decNerr (s : State) : (s.settleIrq).decNerr = s.decNerr := rfl
@[simp] theorem State.settleIrq_errLoc (s : State) : (s.settleIrq).errLoc = s.errLoc := rfl
@[simp] theorem State.settleIrq_chkMax (s : State) : (s.settleIrq).chkMax = s.chkMax := rfl
@[simp] theorem State.settleIrq_chkSum (s : State) : (s.settleIrq).chkSum = s.chkSum := rfl
@[simp] theorem State.settleIrq_chkId (s : State) : (s.settleIrq).chkId = s.chkId := rfl
@[simp] theorem State.settleIrq_chkLen (s : State) : (s.settleIrq).chkLen = s.chkLen := rfl
@[simp] theorem State.settleIrq_chkCount (s : State) : (s.settleIrq).chkCount = s.chkCount := rfl
@[simp] theorem State.settleIrq_chkTrailer (s : State) : (s.settleIrq).chkTrailer = s.chkTrailer := rfl
@[simp] theorem State.settleIrq_cw (s : State) : (s.settleIrq).cw = s.cw := rfl
@[simp] theorem State.settleIrq_job (s : State) : (s.settleIrq).job = s.job := rfl
@[simp] theorem State.settleIrq_irq (s : State) :
    (s.settleIrq).irq = irqLevel s.ctrl s.status := rfl
@[simp] theorem State.settleIrq_agenda (s : State) : (s.settleIrq).agenda = s.agenda := rfl
@[simp] theorem State.settleIrq_rdata (s : State) : (s.settleIrq).rdata = s.rdata := rfl
@[simp] theorem State.settleIrq_draws (s : State) : (s.settleIrq).draws = s.draws := rfl
@[simp] theorem State.settleIrq_powerUps (s : State) : (s.settleIrq).powerUps = s.powerUps := rfl

/-! ## An error cleared -/

@[simp] theorem State.clearError_cfg (s : State) : (s.clearError).cfg = s.cfg := rfl
@[simp] theorem State.clearError_ctrl (s : State) : (s.clearError).ctrl = s.ctrl := rfl
@[simp] theorem State.clearError_status (s : State) :
    (s.clearError).status = { s.status with err := false, errCode := .none } := rfl
@[simp] theorem State.clearError_errInfo (s : State) :
    (s.clearError).errInfo = 0 := rfl
@[simp] theorem State.clearError_encPad (s : State) : (s.clearError).encPad = s.encPad := rfl
@[simp] theorem State.clearError_encCount (s : State) : (s.clearError).encCount = s.encCount := rfl
@[simp] theorem State.clearError_parity (s : State) : (s.clearError).parity = s.parity := rfl
@[simp] theorem State.clearError_gfA (s : State) : (s.clearError).gfA = s.gfA := rfl
@[simp] theorem State.clearError_gfB (s : State) : (s.clearError).gfB = s.gfB := rfl
@[simp] theorem State.clearError_gfR (s : State) : (s.clearError).gfR = s.gfR := rfl
@[simp] theorem State.clearError_syn (s : State) : (s.clearError).syn = s.syn := rfl
@[simp] theorem State.clearError_decNerr (s : State) : (s.clearError).decNerr = s.decNerr := rfl
@[simp] theorem State.clearError_errLoc (s : State) : (s.clearError).errLoc = s.errLoc := rfl
@[simp] theorem State.clearError_chkMax (s : State) : (s.clearError).chkMax = s.chkMax := rfl
@[simp] theorem State.clearError_chkSum (s : State) : (s.clearError).chkSum = s.chkSum := rfl
@[simp] theorem State.clearError_chkId (s : State) : (s.clearError).chkId = s.chkId := rfl
@[simp] theorem State.clearError_chkLen (s : State) : (s.clearError).chkLen = s.chkLen := rfl
@[simp] theorem State.clearError_chkCount (s : State) : (s.clearError).chkCount = s.chkCount := rfl
@[simp] theorem State.clearError_chkTrailer (s : State) : (s.clearError).chkTrailer = s.chkTrailer := rfl
@[simp] theorem State.clearError_cw (s : State) : (s.clearError).cw = s.cw := rfl
@[simp] theorem State.clearError_job (s : State) : (s.clearError).job = s.job := rfl
@[simp] theorem State.clearError_irq (s : State) : (s.clearError).irq = s.irq := rfl
@[simp] theorem State.clearError_agenda (s : State) : (s.clearError).agenda = s.agenda := rfl
@[simp] theorem State.clearError_rdata (s : State) : (s.clearError).rdata = s.rdata := rfl
@[simp] theorem State.clearError_draws (s : State) : (s.clearError).draws = s.draws := rfl
@[simp] theorem State.clearError_powerUps (s : State) : (s.clearError).powerUps = s.powerUps := rfl

/-! ## DONE cleared -/

@[simp] theorem State.clearDone_cfg (s : State) : (s.clearDone).cfg = s.cfg := rfl
@[simp] theorem State.clearDone_ctrl (s : State) : (s.clearDone).ctrl = s.ctrl := rfl
@[simp] theorem State.clearDone_status (s : State) :
    (s.clearDone).status = { s.status with done := false } := rfl
@[simp] theorem State.clearDone_errInfo (s : State) : (s.clearDone).errInfo = s.errInfo := rfl
@[simp] theorem State.clearDone_encPad (s : State) : (s.clearDone).encPad = s.encPad := rfl
@[simp] theorem State.clearDone_encCount (s : State) : (s.clearDone).encCount = s.encCount := rfl
@[simp] theorem State.clearDone_parity (s : State) : (s.clearDone).parity = s.parity := rfl
@[simp] theorem State.clearDone_gfA (s : State) : (s.clearDone).gfA = s.gfA := rfl
@[simp] theorem State.clearDone_gfB (s : State) : (s.clearDone).gfB = s.gfB := rfl
@[simp] theorem State.clearDone_gfR (s : State) : (s.clearDone).gfR = s.gfR := rfl
@[simp] theorem State.clearDone_syn (s : State) : (s.clearDone).syn = s.syn := rfl
@[simp] theorem State.clearDone_decNerr (s : State) : (s.clearDone).decNerr = s.decNerr := rfl
@[simp] theorem State.clearDone_errLoc (s : State) : (s.clearDone).errLoc = s.errLoc := rfl
@[simp] theorem State.clearDone_chkMax (s : State) : (s.clearDone).chkMax = s.chkMax := rfl
@[simp] theorem State.clearDone_chkSum (s : State) : (s.clearDone).chkSum = s.chkSum := rfl
@[simp] theorem State.clearDone_chkId (s : State) : (s.clearDone).chkId = s.chkId := rfl
@[simp] theorem State.clearDone_chkLen (s : State) : (s.clearDone).chkLen = s.chkLen := rfl
@[simp] theorem State.clearDone_chkCount (s : State) : (s.clearDone).chkCount = s.chkCount := rfl
@[simp] theorem State.clearDone_chkTrailer (s : State) : (s.clearDone).chkTrailer = s.chkTrailer := rfl
@[simp] theorem State.clearDone_cw (s : State) : (s.clearDone).cw = s.cw := rfl
@[simp] theorem State.clearDone_job (s : State) : (s.clearDone).job = s.job := rfl
@[simp] theorem State.clearDone_irq (s : State) : (s.clearDone).irq = s.irq := rfl
@[simp] theorem State.clearDone_agenda (s : State) : (s.clearDone).agenda = s.agenda := rfl
@[simp] theorem State.clearDone_rdata (s : State) : (s.clearDone).rdata = s.rdata := rfl
@[simp] theorem State.clearDone_draws (s : State) : (s.clearDone).draws = s.draws := rfl
@[simp] theorem State.clearDone_powerUps (s : State) : (s.clearDone).powerUps = s.powerUps := rfl

/-! ## A job started -/

@[simp] theorem State.startJob_cfg (s : State) (job : Job) : (s.startJob job).cfg = s.cfg := rfl
@[simp] theorem State.startJob_ctrl (s : State) (job : Job) : (s.startJob job).ctrl = s.ctrl := rfl
@[simp] theorem State.startJob_status (s : State) (job : Job) :
    (s.startJob job).status = { s.status with busy := true, done := false } := rfl
@[simp] theorem State.startJob_errInfo (s : State) (job : Job) : (s.startJob job).errInfo = s.errInfo := rfl
@[simp] theorem State.startJob_encPad (s : State) (job : Job) : (s.startJob job).encPad = s.encPad := rfl
@[simp] theorem State.startJob_encCount (s : State) (job : Job) : (s.startJob job).encCount = s.encCount := rfl
@[simp] theorem State.startJob_parity (s : State) (job : Job) : (s.startJob job).parity = s.parity := rfl
@[simp] theorem State.startJob_gfA (s : State) (job : Job) : (s.startJob job).gfA = s.gfA := rfl
@[simp] theorem State.startJob_gfB (s : State) (job : Job) : (s.startJob job).gfB = s.gfB := rfl
@[simp] theorem State.startJob_gfR (s : State) (job : Job) : (s.startJob job).gfR = s.gfR := rfl
@[simp] theorem State.startJob_syn (s : State) (job : Job) : (s.startJob job).syn = s.syn := rfl
@[simp] theorem State.startJob_decNerr (s : State) (job : Job) : (s.startJob job).decNerr = s.decNerr := rfl
@[simp] theorem State.startJob_errLoc (s : State) (job : Job) : (s.startJob job).errLoc = s.errLoc := rfl
@[simp] theorem State.startJob_chkMax (s : State) (job : Job) : (s.startJob job).chkMax = s.chkMax := rfl
@[simp] theorem State.startJob_chkSum (s : State) (job : Job) : (s.startJob job).chkSum = s.chkSum := rfl
@[simp] theorem State.startJob_chkId (s : State) (job : Job) : (s.startJob job).chkId = s.chkId := rfl
@[simp] theorem State.startJob_chkLen (s : State) (job : Job) : (s.startJob job).chkLen = s.chkLen := rfl
@[simp] theorem State.startJob_chkCount (s : State) (job : Job) : (s.startJob job).chkCount = s.chkCount := rfl
@[simp] theorem State.startJob_chkTrailer (s : State) (job : Job) : (s.startJob job).chkTrailer = s.chkTrailer := rfl
@[simp] theorem State.startJob_cw (s : State) (job : Job) : (s.startJob job).cw = s.cw := rfl
@[simp] theorem State.startJob_job (s : State) (job : Job) :
    (s.startJob job).job = some job := rfl
@[simp] theorem State.startJob_irq (s : State) (job : Job) : (s.startJob job).irq = s.irq := rfl
@[simp] theorem State.startJob_agenda (s : State) (job : Job) : (s.startJob job).agenda = s.agenda := rfl
@[simp] theorem State.startJob_rdata (s : State) (job : Job) : (s.startJob job).rdata = s.rdata := rfl
@[simp] theorem State.startJob_draws (s : State) (job : Job) : (s.startJob job).draws = s.draws := rfl
@[simp] theorem State.startJob_powerUps (s : State) (job : Job) : (s.startJob job).powerUps = s.powerUps := rfl

/-! ## A job ended -/

@[simp] theorem State.endJob_cfg (s : State) : (s.endJob).cfg = s.cfg := rfl
@[simp] theorem State.endJob_ctrl (s : State) : (s.endJob).ctrl = s.ctrl := rfl
@[simp] theorem State.endJob_status (s : State) :
    (s.endJob).status = { s.status with busy := false, done := true } := rfl
@[simp] theorem State.endJob_errInfo (s : State) : (s.endJob).errInfo = s.errInfo := rfl
@[simp] theorem State.endJob_encPad (s : State) : (s.endJob).encPad = s.encPad := rfl
@[simp] theorem State.endJob_encCount (s : State) : (s.endJob).encCount = s.encCount := rfl
@[simp] theorem State.endJob_parity (s : State) : (s.endJob).parity = s.parity := rfl
@[simp] theorem State.endJob_gfA (s : State) : (s.endJob).gfA = s.gfA := rfl
@[simp] theorem State.endJob_gfB (s : State) : (s.endJob).gfB = s.gfB := rfl
@[simp] theorem State.endJob_gfR (s : State) : (s.endJob).gfR = s.gfR := rfl
@[simp] theorem State.endJob_syn (s : State) : (s.endJob).syn = s.syn := rfl
@[simp] theorem State.endJob_decNerr (s : State) : (s.endJob).decNerr = s.decNerr := rfl
@[simp] theorem State.endJob_errLoc (s : State) : (s.endJob).errLoc = s.errLoc := rfl
@[simp] theorem State.endJob_chkMax (s : State) : (s.endJob).chkMax = s.chkMax := rfl
@[simp] theorem State.endJob_chkSum (s : State) : (s.endJob).chkSum = s.chkSum := rfl
@[simp] theorem State.endJob_chkId (s : State) : (s.endJob).chkId = s.chkId := rfl
@[simp] theorem State.endJob_chkLen (s : State) : (s.endJob).chkLen = s.chkLen := rfl
@[simp] theorem State.endJob_chkCount (s : State) : (s.endJob).chkCount = s.chkCount := rfl
@[simp] theorem State.endJob_chkTrailer (s : State) : (s.endJob).chkTrailer = s.chkTrailer := rfl
@[simp] theorem State.endJob_cw (s : State) : (s.endJob).cw = s.cw := rfl
@[simp] theorem State.endJob_job (s : State) :
    (s.endJob).job = none := rfl
@[simp] theorem State.endJob_irq (s : State) : (s.endJob).irq = s.irq := rfl
@[simp] theorem State.endJob_agenda (s : State) : (s.endJob).agenda = s.agenda := rfl
@[simp] theorem State.endJob_rdata (s : State) : (s.endJob).rdata = s.rdata := rfl
@[simp] theorem State.endJob_draws (s : State) : (s.endJob).draws = s.draws := rfl
@[simp] theorem State.endJob_powerUps (s : State) : (s.endJob).powerUps = s.powerUps := rfl

/-! ## The registers reset -/

@[simp] theorem State.resetRegisters_cfg (s : State) : (s.resetRegisters).cfg = s.cfg := rfl
@[simp] theorem State.resetRegisters_ctrl (s : State) : (s.resetRegisters).ctrl = State.reset.ctrl := rfl
@[simp] theorem State.resetRegisters_status (s : State) : (s.resetRegisters).status = State.reset.status := rfl
@[simp] theorem State.resetRegisters_errInfo (s : State) : (s.resetRegisters).errInfo = State.reset.errInfo := rfl
@[simp] theorem State.resetRegisters_encPad (s : State) : (s.resetRegisters).encPad = State.reset.encPad := rfl
@[simp] theorem State.resetRegisters_encCount (s : State) : (s.resetRegisters).encCount = State.reset.encCount := rfl
@[simp] theorem State.resetRegisters_parity (s : State) : (s.resetRegisters).parity = State.reset.parity := rfl
@[simp] theorem State.resetRegisters_gfA (s : State) : (s.resetRegisters).gfA = State.reset.gfA := rfl
@[simp] theorem State.resetRegisters_gfB (s : State) : (s.resetRegisters).gfB = State.reset.gfB := rfl
@[simp] theorem State.resetRegisters_gfR (s : State) : (s.resetRegisters).gfR = State.reset.gfR := rfl
@[simp] theorem State.resetRegisters_syn (s : State) : (s.resetRegisters).syn = State.reset.syn := rfl
@[simp] theorem State.resetRegisters_decNerr (s : State) : (s.resetRegisters).decNerr = State.reset.decNerr := rfl
@[simp] theorem State.resetRegisters_errLoc (s : State) : (s.resetRegisters).errLoc = State.reset.errLoc := rfl
@[simp] theorem State.resetRegisters_chkMax (s : State) : (s.resetRegisters).chkMax = State.reset.chkMax := rfl
@[simp] theorem State.resetRegisters_chkSum (s : State) : (s.resetRegisters).chkSum = State.reset.chkSum := rfl
@[simp] theorem State.resetRegisters_chkId (s : State) : (s.resetRegisters).chkId = State.reset.chkId := rfl
@[simp] theorem State.resetRegisters_chkLen (s : State) : (s.resetRegisters).chkLen = State.reset.chkLen := rfl
@[simp] theorem State.resetRegisters_chkCount (s : State) : (s.resetRegisters).chkCount = State.reset.chkCount := rfl
@[simp] theorem State.resetRegisters_chkTrailer (s : State) : (s.resetRegisters).chkTrailer = State.reset.chkTrailer := rfl
@[simp] theorem State.resetRegisters_cw (s : State) : (s.resetRegisters).cw = s.cw := rfl
@[simp] theorem State.resetRegisters_job (s : State) : (s.resetRegisters).job = State.reset.job := rfl
@[simp] theorem State.resetRegisters_irq (s : State) : (s.resetRegisters).irq = State.reset.irq := rfl
@[simp] theorem State.resetRegisters_agenda (s : State) : (s.resetRegisters).agenda = s.agenda := rfl
@[simp] theorem State.resetRegisters_rdata (s : State) : (s.resetRegisters).rdata = s.rdata := rfl
@[simp] theorem State.resetRegisters_draws (s : State) : (s.resetRegisters).draws = s.draws := rfl
@[simp] theorem State.resetRegisters_powerUps (s : State) : (s.resetRegisters).powerUps = s.powerUps := rfl

/-! ## An error captured -/

@[simp] theorem State.capture_cfg (s : State) (code : ErrCode) (info : Word) : (s.capture code info).cfg = s.cfg := by
  unfold State.capture; split <;> rfl
@[simp] theorem State.capture_ctrl (s : State) (code : ErrCode) (info : Word) : (s.capture code info).ctrl = s.ctrl := by
  unfold State.capture; split <;> rfl
@[simp] theorem State.capture_encPad (s : State) (code : ErrCode) (info : Word) : (s.capture code info).encPad = s.encPad := by
  unfold State.capture; split <;> rfl
@[simp] theorem State.capture_encCount (s : State) (code : ErrCode) (info : Word) : (s.capture code info).encCount = s.encCount := by
  unfold State.capture; split <;> rfl
@[simp] theorem State.capture_parity (s : State) (code : ErrCode) (info : Word) : (s.capture code info).parity = s.parity := by
  unfold State.capture; split <;> rfl
@[simp] theorem State.capture_gfA (s : State) (code : ErrCode) (info : Word) : (s.capture code info).gfA = s.gfA := by
  unfold State.capture; split <;> rfl
@[simp] theorem State.capture_gfB (s : State) (code : ErrCode) (info : Word) : (s.capture code info).gfB = s.gfB := by
  unfold State.capture; split <;> rfl
@[simp] theorem State.capture_gfR (s : State) (code : ErrCode) (info : Word) : (s.capture code info).gfR = s.gfR := by
  unfold State.capture; split <;> rfl
@[simp] theorem State.capture_syn (s : State) (code : ErrCode) (info : Word) : (s.capture code info).syn = s.syn := by
  unfold State.capture; split <;> rfl
@[simp] theorem State.capture_decNerr (s : State) (code : ErrCode) (info : Word) : (s.capture code info).decNerr = s.decNerr := by
  unfold State.capture; split <;> rfl
@[simp] theorem State.capture_errLoc (s : State) (code : ErrCode) (info : Word) : (s.capture code info).errLoc = s.errLoc := by
  unfold State.capture; split <;> rfl
@[simp] theorem State.capture_chkMax (s : State) (code : ErrCode) (info : Word) : (s.capture code info).chkMax = s.chkMax := by
  unfold State.capture; split <;> rfl
@[simp] theorem State.capture_chkSum (s : State) (code : ErrCode) (info : Word) : (s.capture code info).chkSum = s.chkSum := by
  unfold State.capture; split <;> rfl
@[simp] theorem State.capture_chkId (s : State) (code : ErrCode) (info : Word) : (s.capture code info).chkId = s.chkId := by
  unfold State.capture; split <;> rfl
@[simp] theorem State.capture_chkLen (s : State) (code : ErrCode) (info : Word) : (s.capture code info).chkLen = s.chkLen := by
  unfold State.capture; split <;> rfl
@[simp] theorem State.capture_chkCount (s : State) (code : ErrCode) (info : Word) : (s.capture code info).chkCount = s.chkCount := by
  unfold State.capture; split <;> rfl
@[simp] theorem State.capture_chkTrailer (s : State) (code : ErrCode) (info : Word) : (s.capture code info).chkTrailer = s.chkTrailer := by
  unfold State.capture; split <;> rfl
@[simp] theorem State.capture_cw (s : State) (code : ErrCode) (info : Word) : (s.capture code info).cw = s.cw := by
  unfold State.capture; split <;> rfl
@[simp] theorem State.capture_job (s : State) (code : ErrCode) (info : Word) : (s.capture code info).job = s.job := by
  unfold State.capture; split <;> rfl
@[simp] theorem State.capture_irq (s : State) (code : ErrCode) (info : Word) : (s.capture code info).irq = s.irq := by
  unfold State.capture; split <;> rfl
@[simp] theorem State.capture_agenda (s : State) (code : ErrCode) (info : Word) : (s.capture code info).agenda = s.agenda := by
  unfold State.capture; split <;> rfl
@[simp] theorem State.capture_rdata (s : State) (code : ErrCode) (info : Word) : (s.capture code info).rdata = s.rdata := by
  unfold State.capture; split <;> rfl
@[simp] theorem State.capture_draws (s : State) (code : ErrCode) (info : Word) : (s.capture code info).draws = s.draws := by
  unfold State.capture; split <;> rfl
@[simp] theorem State.capture_powerUps (s : State) (code : ErrCode) (info : Word) : (s.capture code info).powerUps = s.powerUps := by
  unfold State.capture; split <;> rfl

/-- The first error is recorded. -/
theorem State.capture_of_clear {s : State} (h : s.status.err = false) (code : ErrCode) (info : Word) :
    s.capture code info =
      { s with status := { s.status with err := true, errCode := code }, errInfo := info } := by
  simp [State.capture, h]

/-- A later error is not. -/
theorem State.capture_of_set {s : State} (h : s.status.err = true) (code : ErrCode) (info : Word) :
    s.capture code info = s := by
  simp [State.capture, h]

@[simp] theorem State.capture_err (s : State) (code : ErrCode) (info : Word) :
    (s.capture code info).status.err = true := by
  cases h : s.status.err <;> simp [State.capture, h]

/-- A capture changes STATUS in ERR and ERRCODE only. -/
theorem State.capture_status (s : State) (code : ErrCode) (info : Word) :
    sameStatusButError s.status (s.capture code info).status := by
  cases h : s.status.err <;> simp [State.capture, h]

/-! ## The package result cleared -/

@[simp] theorem State.clearCheck_cfg (s : State) : (s.clearCheck).cfg = s.cfg := by
  unfold State.clearCheck; split <;> rfl
@[simp] theorem State.clearCheck_ctrl (s : State) : (s.clearCheck).ctrl = s.ctrl := by
  unfold State.clearCheck; split <;> rfl
@[simp] theorem State.clearCheck_errInfo (s : State) : (s.clearCheck).errInfo = s.errInfo := by
  unfold State.clearCheck; split <;> rfl
@[simp] theorem State.clearCheck_encPad (s : State) : (s.clearCheck).encPad = s.encPad := by
  unfold State.clearCheck; split <;> rfl
@[simp] theorem State.clearCheck_encCount (s : State) : (s.clearCheck).encCount = s.encCount := by
  unfold State.clearCheck; split <;> rfl
@[simp] theorem State.clearCheck_parity (s : State) : (s.clearCheck).parity = s.parity := by
  unfold State.clearCheck; split <;> rfl
@[simp] theorem State.clearCheck_gfA (s : State) : (s.clearCheck).gfA = s.gfA := by
  unfold State.clearCheck; split <;> rfl
@[simp] theorem State.clearCheck_gfB (s : State) : (s.clearCheck).gfB = s.gfB := by
  unfold State.clearCheck; split <;> rfl
@[simp] theorem State.clearCheck_gfR (s : State) : (s.clearCheck).gfR = s.gfR := by
  unfold State.clearCheck; split <;> rfl
@[simp] theorem State.clearCheck_syn (s : State) : (s.clearCheck).syn = s.syn := by
  unfold State.clearCheck; split <;> rfl
@[simp] theorem State.clearCheck_decNerr (s : State) : (s.clearCheck).decNerr = s.decNerr := by
  unfold State.clearCheck; split <;> rfl
@[simp] theorem State.clearCheck_errLoc (s : State) : (s.clearCheck).errLoc = s.errLoc := by
  unfold State.clearCheck; split <;> rfl
@[simp] theorem State.clearCheck_chkMax (s : State) : (s.clearCheck).chkMax = s.chkMax := by
  unfold State.clearCheck; split <;> rfl
@[simp] theorem State.clearCheck_chkSum (s : State) : (s.clearCheck).chkSum = s.chkSum := by
  unfold State.clearCheck; split <;> rfl
@[simp] theorem State.clearCheck_chkId (s : State) : (s.clearCheck).chkId = s.chkId := by
  unfold State.clearCheck; split <;> rfl
@[simp] theorem State.clearCheck_chkLen (s : State) : (s.clearCheck).chkLen = s.chkLen := by
  unfold State.clearCheck; split <;> rfl
@[simp] theorem State.clearCheck_chkCount (s : State) : (s.clearCheck).chkCount = s.chkCount := by
  unfold State.clearCheck; split <;> rfl
@[simp] theorem State.clearCheck_chkTrailer (s : State) : (s.clearCheck).chkTrailer = s.chkTrailer := by
  unfold State.clearCheck; split <;> rfl
@[simp] theorem State.clearCheck_cw (s : State) : (s.clearCheck).cw = s.cw := by
  unfold State.clearCheck; split <;> rfl
@[simp] theorem State.clearCheck_job (s : State) : (s.clearCheck).job = s.job := by
  unfold State.clearCheck; split <;> rfl
@[simp] theorem State.clearCheck_irq (s : State) : (s.clearCheck).irq = s.irq := by
  unfold State.clearCheck; split <;> rfl
@[simp] theorem State.clearCheck_agenda (s : State) : (s.clearCheck).agenda = s.agenda := by
  unfold State.clearCheck; split <;> rfl
@[simp] theorem State.clearCheck_rdata (s : State) : (s.clearCheck).rdata = s.rdata := by
  unfold State.clearCheck; split <;> rfl
@[simp] theorem State.clearCheck_draws (s : State) : (s.clearCheck).draws = s.draws := by
  unfold State.clearCheck; split <;> rfl
@[simp] theorem State.clearCheck_powerUps (s : State) : (s.clearCheck).powerUps = s.powerUps := by
  unfold State.clearCheck; split <;> rfl

/-! ## The size guard -/

@[simp] theorem State.sizeGuard_cfg (s : State) : (s.sizeGuard).cfg = s.cfg := by
  unfold State.sizeGuard; split <;> rfl
@[simp] theorem State.sizeGuard_ctrl (s : State) : (s.sizeGuard).ctrl = s.ctrl := by
  unfold State.sizeGuard; split <;> rfl
@[simp] theorem State.sizeGuard_errInfo (s : State) : (s.sizeGuard).errInfo = s.errInfo := by
  unfold State.sizeGuard; split <;> rfl
@[simp] theorem State.sizeGuard_encPad (s : State) : (s.sizeGuard).encPad = s.encPad := by
  unfold State.sizeGuard; split <;> rfl
@[simp] theorem State.sizeGuard_encCount (s : State) : (s.sizeGuard).encCount = s.encCount := by
  unfold State.sizeGuard; split <;> rfl
@[simp] theorem State.sizeGuard_parity (s : State) : (s.sizeGuard).parity = s.parity := by
  unfold State.sizeGuard; split <;> rfl
@[simp] theorem State.sizeGuard_gfA (s : State) : (s.sizeGuard).gfA = s.gfA := by
  unfold State.sizeGuard; split <;> rfl
@[simp] theorem State.sizeGuard_gfB (s : State) : (s.sizeGuard).gfB = s.gfB := by
  unfold State.sizeGuard; split <;> rfl
@[simp] theorem State.sizeGuard_gfR (s : State) : (s.sizeGuard).gfR = s.gfR := by
  unfold State.sizeGuard; split <;> rfl
@[simp] theorem State.sizeGuard_syn (s : State) : (s.sizeGuard).syn = s.syn := by
  unfold State.sizeGuard; split <;> rfl
@[simp] theorem State.sizeGuard_decNerr (s : State) : (s.sizeGuard).decNerr = s.decNerr := by
  unfold State.sizeGuard; split <;> rfl
@[simp] theorem State.sizeGuard_errLoc (s : State) : (s.sizeGuard).errLoc = s.errLoc := by
  unfold State.sizeGuard; split <;> rfl
@[simp] theorem State.sizeGuard_chkMax (s : State) : (s.sizeGuard).chkMax = s.chkMax := by
  unfold State.sizeGuard; split <;> rfl
@[simp] theorem State.sizeGuard_chkSum (s : State) : (s.sizeGuard).chkSum = s.chkSum := by
  unfold State.sizeGuard; split <;> rfl
@[simp] theorem State.sizeGuard_chkId (s : State) : (s.sizeGuard).chkId = s.chkId := by
  unfold State.sizeGuard; split <;> rfl
@[simp] theorem State.sizeGuard_chkLen (s : State) : (s.sizeGuard).chkLen = s.chkLen := by
  unfold State.sizeGuard; split <;> rfl
@[simp] theorem State.sizeGuard_chkCount (s : State) : (s.sizeGuard).chkCount = s.chkCount := by
  unfold State.sizeGuard; split <;> rfl
@[simp] theorem State.sizeGuard_chkTrailer (s : State) : (s.sizeGuard).chkTrailer = s.chkTrailer := by
  unfold State.sizeGuard; split <;> rfl
@[simp] theorem State.sizeGuard_cw (s : State) : (s.sizeGuard).cw = s.cw := by
  unfold State.sizeGuard; split <;> rfl
@[simp] theorem State.sizeGuard_job (s : State) : (s.sizeGuard).job = s.job := by
  unfold State.sizeGuard; split <;> rfl
@[simp] theorem State.sizeGuard_irq (s : State) : (s.sizeGuard).irq = s.irq := by
  unfold State.sizeGuard; split <;> rfl
@[simp] theorem State.sizeGuard_agenda (s : State) : (s.sizeGuard).agenda = s.agenda := by
  unfold State.sizeGuard; split <;> rfl
@[simp] theorem State.sizeGuard_rdata (s : State) : (s.sizeGuard).rdata = s.rdata := by
  unfold State.sizeGuard; split <;> rfl
@[simp] theorem State.sizeGuard_draws (s : State) : (s.sizeGuard).draws = s.draws := by
  unfold State.sizeGuard; split <;> rfl
@[simp] theorem State.sizeGuard_powerUps (s : State) : (s.sizeGuard).powerUps = s.powerUps := by
  unfold State.sizeGuard; split <;> rfl

/-! ## The verdict -/

@[simp] theorem State.verdict_cfg (s : State) : (s.verdict).cfg = s.cfg := rfl
@[simp] theorem State.verdict_ctrl (s : State) : (s.verdict).ctrl = s.ctrl := rfl
@[simp] theorem State.verdict_errInfo (s : State) : (s.verdict).errInfo = s.errInfo := rfl
@[simp] theorem State.verdict_encPad (s : State) : (s.verdict).encPad = s.encPad := rfl
@[simp] theorem State.verdict_encCount (s : State) : (s.verdict).encCount = s.encCount := rfl
@[simp] theorem State.verdict_parity (s : State) : (s.verdict).parity = s.parity := rfl
@[simp] theorem State.verdict_gfA (s : State) : (s.verdict).gfA = s.gfA := rfl
@[simp] theorem State.verdict_gfB (s : State) : (s.verdict).gfB = s.gfB := rfl
@[simp] theorem State.verdict_gfR (s : State) : (s.verdict).gfR = s.gfR := rfl
@[simp] theorem State.verdict_syn (s : State) : (s.verdict).syn = s.syn := rfl
@[simp] theorem State.verdict_decNerr (s : State) : (s.verdict).decNerr = s.decNerr := rfl
@[simp] theorem State.verdict_errLoc (s : State) : (s.verdict).errLoc = s.errLoc := rfl
@[simp] theorem State.verdict_chkMax (s : State) : (s.verdict).chkMax = s.chkMax := rfl
@[simp] theorem State.verdict_chkSum (s : State) : (s.verdict).chkSum = s.chkSum := rfl
@[simp] theorem State.verdict_chkId (s : State) : (s.verdict).chkId = s.chkId := rfl
@[simp] theorem State.verdict_chkLen (s : State) : (s.verdict).chkLen = s.chkLen := rfl
@[simp] theorem State.verdict_chkCount (s : State) : (s.verdict).chkCount = s.chkCount := rfl
@[simp] theorem State.verdict_chkTrailer (s : State) : (s.verdict).chkTrailer = s.chkTrailer := rfl
@[simp] theorem State.verdict_cw (s : State) : (s.verdict).cw = s.cw := rfl
@[simp] theorem State.verdict_job (s : State) : (s.verdict).job = s.job := rfl
@[simp] theorem State.verdict_irq (s : State) : (s.verdict).irq = s.irq := rfl
@[simp] theorem State.verdict_agenda (s : State) : (s.verdict).agenda = s.agenda := rfl
@[simp] theorem State.verdict_rdata (s : State) : (s.verdict).rdata = s.rdata := rfl
@[simp] theorem State.verdict_draws (s : State) : (s.verdict).draws = s.draws := rfl
@[simp] theorem State.verdict_powerUps (s : State) : (s.verdict).powerUps = s.powerUps := rfl

/-! ## The codeword buffer seen through a state -/

/-- A byte of CW depends on the written cells and on the power-up alone. -/
theorem State.cwByte_congr {s t : State} (hcw : t.cw = s.cw) (hp : t.powerUps = s.powerUps) (k : Nat) :
    t.cwByte k = s.cwByte k := by
  simp [State.cwByte, hcw, hp]

/-- A rejected write leaves the buffer, and every register but the error record and irq. -/
theorem State.rejected_cw (s : State) (code : ErrCode) (info : Word) : (s.rejected code info).cw = s.cw := by
  simp [State.rejected]

@[simp] theorem State.reset_cw_wf : State.reset.cw.wf := by decide

end Sys2Proof.Machine
end

