-- ==== Sys2Proof/Laws/Ops.lean ====
section
/-! SUPPORT. What the shared operations can answer: one lemma for each, cited instead of unfolding it. -/

namespace Sys2Proof.Machine

/-- The end of a step is a next state. -/
theorem complete_eq (s : State) : complete s = .next s.settleIrq := rfl

/-- Taking an error is a next state, the rejected one. -/
theorem raiseError_eq (code : ErrCode) (info : Word) (s : State) :
    raiseError code info s = .next (s.rejected code info) := rfl

theorem unlessBusy_of_ready {s : State} (h : s.ready) (a : BusWrite) (r : Result) : unlessBusy a s r = r := by
  simp [unlessBusy, h]

theorem unlessBusy_of_busy {s : State} (h : s.status.busy = true) (a : BusWrite) (r : Result) :
    unlessBusy a s r = .next (s.rejected .busy (accessInfo a)) := by
  simp [unlessBusy, h, raiseError_eq]

/-- The two cases of the busy rule. -/
theorem unlessBusy_next {a : BusWrite} {s t : State} {r : Result} (h : unlessBusy a s r = .next t) :
    (s.status.busy = true ∧ t = s.rejected .busy (accessInfo a)) ∨ (s.ready ∧ r = .next t) := by
  cases hb : s.status.busy
  · exact .inr ⟨hb, by rwa [unlessBusy_of_ready hb] at h⟩
  · rw [unlessBusy_of_busy hb] at h
    cases h
    exact .inl ⟨rfl, rfl⟩

/-- The busy rule answers a next state where the instruction does. -/
theorem unlessBusy_answers (a : BusWrite) (s : State) {r : Result} (h : ∃ t, r = .next t) :
    ∃ t, unlessBusy a s r = .next t := by
  cases hb : s.status.busy
  · rwa [unlessBusy_of_ready hb]
  · exact ⟨_, unlessBusy_of_busy hb a r⟩

theorem withChkCommand_of_present {s : State} (h : s.cfg.hasChk = true) (a : BusWrite) (r : Result) :
    withChkCommand a s r = r := by
  simp [withChkCommand, h]

theorem withChkCommand_of_absent {s : State} (h : s.cfg.hasChk = false) (a : BusWrite) (r : Result) :
    withChkCommand a s r = .next (s.rejected .badOpcode (commandInfo a)) := by
  simp [withChkCommand, h, raiseError_eq]

/-- The range of pad as a bound on its number. -/
theorem padInRange_iff (pad : Byte) : padInRange pad = true ↔ pad.toNat ≤ 223 := by
  simp [padInRange]

theorem messageLength_eq (pad : Byte) : messageLength pad = 223 - pad.toNat := rfl

/-- The byte operand is the data modulo 256. -/
theorem byteOperand_eq (data : Word) : byteOperand data = BitVec.ofNat 8 (data.toNat % 256) := by
  apply BitVec.eq_of_toNat_eq
  simp [byteOperand]

theorem setLowByte_eq (v : BitVec 16) (d : Byte) :
    setLowByte v d = BitVec.ofNat 16 (v.toNat / 256 * 256 + d.toNat) := by
  apply BitVec.eq_of_toNat_eq
  have := v.isLt
  have := d.isLt
  simp only [setLowByte, BitVec.toNat_append, BitVec.extractLsb'_toNat, BitVec.toNat_ofNat]
  rw [← Nat.shiftLeft_add_eq_or_of_lt d.isLt, Nat.shiftLeft_eq, Nat.shiftRight_eq_div_pow]
  omega

theorem setHighByte_eq (v : BitVec 16) (d : Byte) :
    setHighByte v d = BitVec.ofNat 16 (d.toNat * 256 + v.toNat % 256) := by
  apply BitVec.eq_of_toNat_eq
  have := v.isLt
  have := d.isLt
  have hlow : (v.extractLsb' 0 8).toNat < 2 ^ 8 := (v.extractLsb' 0 8).isLt
  simp only [setHighByte, BitVec.toNat_append, BitVec.toNat_ofNat]
  rw [← Nat.shiftLeft_add_eq_or_of_lt hlow, Nat.shiftLeft_eq]
  simp only [BitVec.extractLsb'_toNat, Nat.shiftRight_zero]
  omega

end Sys2Proof.Machine
end

