-- ==== Sys2Proof/Laws/Checksum.lean ====
section
/-! SUPPORT. What a package byte does at each position (43_checksum R193): one lemma a position, cited instead of
unfolding the parser. -/

namespace Sys2Proof.Machine

theorem State.parseByte_zero (s : State) (d : Byte) :
    s.parseByte 0 d = { s with chkId := setLowByte s.chkId d, chkSum := s.chkSum + d } := rfl

theorem State.parseByte_one (s : State) (d : Byte) :
    s.parseByte 1 d = { s with chkId := setHighByte s.chkId d, chkSum := s.chkSum + d } := rfl

theorem State.parseByte_two (s : State) (d : Byte) :
    s.parseByte 2 d = { s with chkLen := setLowByte s.chkLen d, chkSum := s.chkSum + d } := rfl

theorem State.parseByte_three (s : State) (d : Byte) :
    s.parseByte 3 d =
      ({ s with chkLen := setHighByte s.chkLen d, chkSum := s.chkSum + d } : State).sizeGuard := rfl

theorem State.parseByte_payload (s : State) {n : Nat} (d : Byte) (h : 4 ≤ n) (hn : n < 4 + s.chkLen.toNat) :
    s.parseByte n d = { s with chkSum := s.chkSum + d } := by
  unfold State.parseByte
  rw [if_neg (by omega), if_neg (by omega), if_neg (by omega), if_neg (by omega), if_pos hn]
  rfl

theorem State.parseByte_checksum (s : State) {n : Nat} (d : Byte) (hn : n = 4 + s.chkLen.toNat) :
    s.parseByte n d = { s with chkTrailer := setLowByte s.chkTrailer d } := by
  unfold State.parseByte
  rw [if_neg (by omega), if_neg (by omega), if_neg (by omega), if_neg (by omega), if_neg (by omega), if_pos hn]

theorem State.parseByte_echo (s : State) {n : Nat} (d : Byte) (hn : n = 5 + s.chkLen.toNat) :
    s.parseByte n d = ({ s with chkTrailer := setHighByte s.chkTrailer d } : State).verdict := by
  unfold State.parseByte
  rw [if_neg (by omega), if_neg (by omega), if_neg (by omega), if_neg (by omega), if_neg (by omega),
    if_neg (by omega), if_pos hn]

/-- The size guard lets a package pass that fits CHK_MAX. -/
theorem State.sizeGuard_of_fits {s : State} (h : 4 + s.chkLen.toNat + 2 ≤ s.chkMax.toNat) : s.sizeGuard = s :=
  if_neg (by omega)

theorem State.sizeGuard_of_exceeds {s : State} (h : 4 + s.chkLen.toNat + 2 > s.chkMax.toNat) :
    s.sizeGuard = { s with status := { s.status with chkRes := .sizeExceeded, chkActive := false } } :=
  if_pos h

/-- The bytes of a 16-bit register whose high byte was just written. -/
theorem extract_high_setHighByte (v : BitVec 16) (d : Byte) : (setHighByte v d).extractLsb' 8 8 = d := by
  apply BitVec.eq_of_toNat_eq
  rw [setHighByte_eq]
  simp [Nat.shiftRight_eq_div_pow]
  omega

theorem extract_low_setHighByte (v : BitVec 16) (d : Byte) :
    (setHighByte v d).extractLsb' 0 8 = v.extractLsb' 0 8 := by
  apply BitVec.eq_of_toNat_eq
  rw [setHighByte_eq]
  simp

theorem packagePasses_iff (mode : CompareMode) (sum checksum : Byte) :
    packagePasses mode sum checksum = true ↔ mode = .self ∨ sum = checksum := by
  cases mode <;> simp [packagePasses]

end Sys2Proof.Machine
end

