-- ==== Sys2Proof/Laws/Control.lean ====
section
/-! SUPPORT. What CLR_STATUS does, field by field. -/

namespace Sys2Proof.Machine

/-- The clearing of the package result, field by field. -/
theorem State.clearCheck_eq (s : State) :
    s.clearCheck = { s with status := { s.status with
      chkRes := if s.cfg.hasChk then .none else s.status.chkRes
      chkEchoMatch := s.status.chkEchoMatch && !s.cfg.hasChk } } := by
  unfold State.clearCheck
  split
  · next h => simp [h]
  · next h => simp [h]

/-- CLR_STATUS, field by field. -/
theorem State.clearStatus_eq (s : State) (mask : BitVec 3) :
    s.clearStatus mask = { s with
      status := { s.status with
        done := s.status.done && !mask.getLsbD 0
        err := s.status.err && !mask.getLsbD 1
        errCode := if mask.getLsbD 1 then .none else s.status.errCode
        chkRes := if mask.getLsbD 2 && s.cfg.hasChk then .none else s.status.chkRes
        chkEchoMatch := s.status.chkEchoMatch && !(mask.getLsbD 2 && s.cfg.hasChk) }
      errInfo := if mask.getLsbD 1 then 0 else s.errInfo } := by
  unfold State.clearStatus
  simp only [State.clearCheck_eq, State.clearDone, State.clearError]
  generalize mask.getLsbD 0 = a, mask.getLsbD 1 = b, mask.getLsbD 2 = c
  cases a <;> cases b <;> cases c <;>
    simp only [Bool.false_eq_true, if_false, if_true, Bool.and_true, Bool.and_false, Bool.not_false, Bool.not_true,
      Bool.true_and, Bool.false_and]
end Sys2Proof.Machine
end

