-- ==== Sys2Proof/Laws/Decode.lean ====
section
/-! SUPPORT. The fields of a command word and the register map at the offsets that instructions use. -/

namespace Sys2Proof

/-! ## Command words (30_encoding R81) -/

theorem toNat_opcOf (w : Word) : (opcOf w).toNat = w.toNat % 256 := by simp [opcOf]

theorem toNat_argAOf (w : Word) : (argAOf w).toNat = w.toNat / 256 % 256 := by
  simp [argAOf, Nat.shiftRight_eq_div_pow]

theorem toNat_argBOf (w : Word) : (argBOf w).toNat = w.toNat / 65536 := by
  have := w.isLt
  simp [argBOf, Nat.shiftRight_eq_div_pow]
  omega

theorem toNat_cmdWord (opc argA : Byte) (argB : BitVec 16) :
    (cmdWord opc argA argB).toNat = argB.toNat * 65536 + argA.toNat * 256 + opc.toNat := by
  simp only [cmdWord, BitVec.toNat_append]
  rw [← Nat.shiftLeft_add_eq_or_of_lt opc.isLt, ← Nat.shiftLeft_add_eq_or_of_lt argA.isLt, Nat.shiftLeft_eq,
    Nat.shiftLeft_eq]
  omega

@[simp] theorem opcOf_cmdWord (opc argA : Byte) (argB : BitVec 16) : opcOf (cmdWord opc argA argB) = opc := by
  apply BitVec.eq_of_toNat_eq
  rw [toNat_opcOf, toNat_cmdWord]
  omega

@[simp] theorem argAOf_cmdWord (opc argA : Byte) (argB : BitVec 16) : argAOf (cmdWord opc argA argB) = argA := by
  apply BitVec.eq_of_toNat_eq
  rw [toNat_argAOf, toNat_cmdWord]
  omega

@[simp] theorem argBOf_cmdWord (opc argA : Byte) (argB : BitVec 16) : argBOf (cmdWord opc argA argB) = argB := by
  apply BitVec.eq_of_toNat_eq
  rw [toNat_argBOf, toNat_cmdWord]
  omega

/-- A word is made of its fields. -/
theorem cmdWord_fields (w : Word) : cmdWord (opcOf w) (argAOf w) (argBOf w) = w := by
  apply BitVec.eq_of_toNat_eq
  rw [toNat_cmdWord, toNat_opcOf, toNat_argAOf, toNat_argBOf]
  omega

/-! ## The register map (10_state R22) -/

theorem regAt_cmd (hasChk : Bool) : regAt hasChk 0x014 = some .cmd := by cases hasChk <;> decide
theorem regAt_ctrl (hasChk : Bool) : regAt hasChk 0x010 = some .ctrl := by cases hasChk <;> decide
theorem regAt_encData (hasChk : Bool) : regAt hasChk 0x020 = some .encData := by cases hasChk <;> decide
theorem regAt_gfA (hasChk : Bool) : regAt hasChk 0x02C = some .gfA := by cases hasChk <;> decide
theorem regAt_gfB (hasChk : Bool) : regAt hasChk 0x030 = some .gfB := by cases hasChk <;> decide
theorem regAt_gfR (hasChk : Bool) : regAt hasChk 0x034 = some .gfR := by cases hasChk <;> decide
theorem regAt_chkData : regAt true 0x040 = some .chkData := by decide

theorem regAt_cwOffset (hasChk : Bool) (k : Byte) (h : k ≠ 255) : regAt hasChk (cwOffset k) = some (.cw k) := by
  revert hasChk k
  decide +kernel

theorem regAt_cwOffset_255 (hasChk : Bool) : regAt hasChk (cwOffset 255) = none := by
  revert hasChk
  decide +kernel

/-! The register arrays (10_state R22). -/

theorem regAt_parity (hasChk : Bool) : ∀ j : Fin 32, regAt hasChk (BitVec.ofNat 11 (0x080 + 4 * j.val)) = some (.parity j) := by
  revert hasChk
  decide +kernel

theorem regAt_syn (hasChk : Bool) : ∀ i : Fin 32, regAt hasChk (BitVec.ofNat 11 (0x100 + 4 * i.val)) = some (.syn i) := by
  revert hasChk
  decide +kernel

theorem regAt_errLoc (hasChk : Bool) : ∀ k : Fin 16, regAt hasChk (BitVec.ofNat 11 (0x180 + 4 * k.val)) = some (.errLoc k) := by
  revert hasChk
  decide +kernel

theorem regAt_cw (hasChk : Bool) :
    ∀ k : Fin 255, regAt hasChk (BitVec.ofNat 11 (0x400 + 4 * k.val)) = some (.cw (BitVec.ofNat 8 k.val)) := by
  revert hasChk
  decide +kernel

/-! ## Writes -/

/-- A command word is decoded by its opcode and fields. -/
theorem decodeWrite_command (hasChk : Bool) (w : Word) :
    decodeWrite hasChk (commandWrite w) = decodeCommand hasChk w := by
  simp only [decodeWrite, commandWrite, regAt_cmd, decodeAt]

/-- A port write is decoded by its register. -/
theorem decodeWrite_port {hasChk : Bool} {off : Offset} {r : Reg} (h : regAt hasChk off = some r) (data : Word) :
    decodeWrite hasChk (portWrite off data) = decodeAt hasChk r data := by
  simp only [decodeWrite, portWrite, h]

end Sys2Proof
end

