-- ==== Sys2Proof/Laws/Field.lean ====
section
/-! SUPPORT. The ROM: vectors from functions, the printed tables against the rules that regenerate them, and the first
facts about powers of alpha. -/

namespace Sys2Proof.Machine

@[simp] theorem getElem_tabulate {α : Type} (n : Nat) (f : Nat → α) (i : Nat) (h : i < n) :
    (tabulate n f)[i] = f i := by
  simp [tabulate]

theorem getD_tabulate {α : Type} (n : Nat) (f : Nat → α) (i : Nat) (h : i < n) (d : α) :
    (tabulate n f).getD i d = f i := by
  simp [Vector.getD, h]

@[simp] theorem powersFrom_length (p : BitVec 9) (n : Nat) (x : Byte) : (powersFrom p n x).length = n := by
  induction n generalizing x with
  | zero => rfl
  | succ n ih => simp [powersFrom, ih]

/-- The powers from `alpha^e` on are `alpha^(e + i)`. -/
theorem powersFrom_getElem (p : BitVec 9) (n e i : Nat) (h : i < n) :
    (powersFrom p n (alphaPow p e))[i]'(by simpa using h) = alphaPow p (e + i) := by
  induction n generalizing e i with
  | zero => omega
  | succ n ih =>
    cases i with
    | zero => rfl
    | succ i =>
      have := ih (e + 1) i (by omega)
      simp only [powersFrom, List.getElem_cons_succ]
      simpa [alphaPow, Nat.add_assoc, Nat.add_comm 1 i] using this

/-- Multiplication by alpha is linear. -/
theorem xtime_xor (p : BitVec 9) (a b : Byte) : xtime p (a ^^^ b) = xtime p a ^^^ xtime p b := by
  have hmsb : (a ^^^ b).msb = (a.msb ^^ b.msb) := BitVec.msb_xor
  unfold xtime
  rw [hmsb]
  cases a.msb <;> cases b.msb <;> simp only [Bool.xor_false, Bool.xor_true, Bool.not_false, Bool.not_true,
    if_true, BitVec.shiftLeft_xor_distrib, Bool.false_eq_true, if_false]
  · ac_rfl
  · ac_rfl
  · rw [show a <<< 1 ^^^ BitVec.setWidth 8 p ^^^ (b <<< 1 ^^^ BitVec.setWidth 8 p)
      = (a <<< 1 ^^^ b <<< 1) ^^^ (BitVec.setWidth 8 p ^^^ BitVec.setWidth 8 p) by ac_rfl]
    simp

@[simp] theorem xtime_zero (p : BitVec 9) : xtime p 0 = 0 := by simp [xtime]

/-! ## The printed tables are the ones that the rules build -/

theorem printedAlphaTo_eq_powers : printedAlphaTo = powersFrom 0x187 255 1 ++ [0] := by decide +kernel

theorem printedRom_alphaTo : printedRom.alphaTo.toList = (buildAlphaTo 0x187).toList := by decide +kernel

theorem printedRom_indexOf : printedRom.indexOf.toList = (buildIndexOf 0x187).toList := by decide +kernel

/-- The generator polynomial of the printed field tables, in index form, is the printed one (40_gf_arith §4.3). -/
theorem printedPoly_eq : (generator printedRom).map printedRom.index = printedPoly := by decide +kernel

/-- The field operations read `alpha_to` and `index_of` only. -/
theorem gmul_congr {r r' : Rom} (ha : r.alphaTo = r'.alphaTo) (hi : r.indexOf = r'.indexOf) : gmul r = gmul r' := by
  funext a b
  simp [gmul, Rom.alphaMod, Rom.alpha, Rom.index, ha, hi]

theorem generator_congr {r r' : Rom} (ha : r.alphaTo = r'.alphaTo) (hi : r.indexOf = r'.indexOf) :
    generator r = generator r' := by
  have hr : rootOf r = rootOf r' := by funext i; simp [rootOf, Rom.alphaMod, Rom.alpha, ha]
  simp [generator, polyScale, gmul_congr ha hi, hr]

/-- 40_gf_arith §4 prints what R101 and R102 derive from FIELD_POLY = 0x187. -/
theorem printedRom_eq_buildRom : printedRom = buildRom 0x187 := by
  have ha : printedRom.alphaTo = buildAlphaTo 0x187 := Vector.toList_inj.mp printedRom_alphaTo
  have hi : printedRom.indexOf = buildIndexOf 0x187 := Vector.toList_inj.mp printedRom_indexOf
  have hp : printedRom.poly = (buildRom 0x187).poly := by
    apply Vector.toList_inj.mp
    have hg : (buildRom 0x187).poly =
        tabulate 33 fun i => printedRom.index ((generator printedRom).getD i 0) := by
      simp only [buildRom]
      rw [generator_congr (r' := printedRom) ha.symm hi.symm]
      simp [Rom.index, hi]
    have hlen : (generator printedRom).length = 33 := by
      have := congrArg List.length printedPoly_eq
      rw [List.length_map] at this
      rw [this]
      decide +kernel
    rw [hg]
    show printedPoly = _
    rw [← printedPoly_eq]
    apply List.ext_getElem
    · simp [hlen]
    · intro i h₁ h₂
      have : i < (generator printedRom).length := by simpa using h₁
      simp [tabulate, this]
  calc printedRom = ⟨printedRom.alphaTo, printedRom.indexOf, printedRom.poly⟩ := rfl
    _ = ⟨buildAlphaTo 0x187, buildIndexOf 0x187, (buildRom 0x187).poly⟩ := by rw [ha, hi, hp]
    _ = buildRom 0x187 := rfl

/-- The ROM is the one that the rules derive, for every FIELD_POLY (log 12). -/
theorem romOf_eq_buildRom (p : BitVec 9) : romOf p = buildRom p := by
  unfold romOf
  split
  · next h => rw [h, printedRom_eq_buildRom]
  · rfl

theorem isPrimitive_default : isPrimitive 0x187 = true := by decide +kernel

theorem configOk_iff (cfg : Config) :
    configOk cfg = true ↔
      64 ≤ cfg.chkCap ∧ cfg.chkCap ≤ 65535 ∧ cfg.rsBase % 0x800 = 0 ∧ isPrimitive cfg.fieldPoly = true := by
  have h : (cfg.fieldPoly == 0x187 || isPrimitive cfg.fieldPoly) = true ↔ isPrimitive cfg.fieldPoly = true := by
    constructor
    · intro h
      rcases Bool.or_eq_true_iff.mp h with h | h
      · rw [eq_of_beq h]; exact isPrimitive_default
      · exact h
    · intro h; simp [h]
  unfold configOk
  rw [Bool.and_eq_true, Bool.and_eq_true, Bool.and_eq_true, h]
  simp [and_assoc]

end Sys2Proof.Machine
end

