-- ==== Sys2Proof/Laws/Decoder.lean ====
section
/-! SUPPORT. The shape of what the syndrome calculator and the corrector answer. -/

namespace Sys2Proof.Machine

/-- The received word has one byte for each index from pad to 254. -/
@[simp] theorem State.receivedWord_length (s : State) (pad : Byte) :
    (s.receivedWord pad).length = 255 - pad.toNat := by
  simp [State.receivedWord]

@[simp] theorem getElem_syndromes (rom : Rom) (word : List Byte) (i : Nat) (h : i < 32) :
    (syndromes rom word)[i] = syndrome rom word i := by
  simp [syndromes]

/-- The zero test looks at every syndrome. -/
theorem allZero_iff (syn : Vector Byte 32) : allZero syn = true ↔ ∀ i : Fin 32, syn[i] = 0 := by
  rw [allZero, List.all_eq_true]
  constructor
  · intro h i
    have := h syn[i] (by simp)
    simpa using this
  · intro h b hb
    obtain ⟨i, hi, rfl⟩ := List.getElem_of_mem hb
    have := h ⟨i, by simpa using hi⟩
    simpa using this

/-- There is one correction for each position in which the words differ. -/
theorem corrections_length (pad : Nat) (word c : List Byte) :
    (corrections pad word c).length = distance word c := by
  unfold corrections distance
  rw [List.length_map]
  suffices ∀ (p : Nat) (w c : List Byte), ((List.range' p w.length).zip (w.zip c)
      |>.filter fun x => x.2.1 != x.2.2).length = ((w.zip c).filter fun x => x.1 != x.2).length from this pad word c
  intro p w c
  induction w generalizing p c with
  | nil => simp
  | cons a w ih =>
    cases c with
    | nil => simp
    | cons b c =>
      simp only [List.length_cons, List.range'_succ, List.zip_cons_cons, List.filter_cons]
      split <;> simp [ih]

/-- The first parts of a zip are a sublist. -/
theorem map_fst_zip_sublist {α β : Type} (as : List α) (bs : List β) : ((as.zip bs).map Prod.fst).Sublist as := by
  induction as generalizing bs with
  | nil => simp
  | cons a as ih =>
    cases bs with
    | nil => simp
    | cons b bs => simpa using ih bs

/-- The corrected positions are CW indices of the received word, in ascending order. -/
theorem corrections_keys (pad : Nat) (word c : List Byte) :
    ((corrections pad word c).map Prod.fst).Pairwise (· < ·) ∧
    ∀ kv ∈ corrections pad word c, pad ≤ kv.1 ∧ kv.1 < pad + word.length := by
  have hsub : ((corrections pad word c).map Prod.fst).Sublist (List.range' pad word.length) := by
    have h1 : ((corrections pad word c).map Prod.fst).Sublist
        (((List.range' pad word.length).zip (word.zip c)).map Prod.fst) := by
      unfold corrections
      rw [List.map_map]
      exact (List.filter_sublist).map _
    exact h1.trans (map_fst_zip_sublist _ _)
  refine ⟨(List.pairwise_lt_range' (step := 1)).sublist hsub, fun kv h => ?_⟩
  have := List.mem_range'_1.mp (hsub.subset (List.mem_map_of_mem h))
  exact this

/-- What the corrector answers is in the code and near the received word. -/
theorem decodeWord_some {rom : Rom} {pad : Nat} {word c : List Byte} (h : decodeWord rom pad word = some c) :
    allZero (syndromes rom c) = true ∧ distance word c ≤ Config.t := by
  unfold decodeWord at h
  split at h
  · cases h
  · dsimp only at h
    split at h
    · next hc => cases h; exact hc
    · cases h

/-- Where the reference algorithm fails, no codeword is answered. -/
theorem decodeWord_none {rom : Rom} {pad : Nat} {word syn : List Byte} (hs : (syndromes rom word).toList = syn)
    (h : locateErrors rom pad syn = none) : decodeWord rom pad word = none := by
  unfold decodeWord
  rw [hs, h]

end Sys2Proof.Machine
end

