-- ==== Sys2Proof/Laws/Exec.lean ====
section
/-! SUPPORT. What the instructions can answer, said once: each either rejects its write or has its one effect. Later
proofs cite `exec_cases` and unfold no meaning. -/

namespace Sys2Proof.Machine

/-- When an instruction has its effect. -/
def accepts (i : Instr) (s : State) : Prop :=
  (i ≠ .softReset → s.ready) ∧ (i.needsChk = true → s.cfg.hasChk = true) ∧
  match i with
  | .nop => True
  | .softReset => True
  | .clrStatus _ => True
  | .encInit pad => padInRange pad = true
  | .encFinish => s.status.encActive = true ∧ s.encCount.toNat = messageLength s.encPad
  | .encBlock pad => padInRange pad = true
  | .gfAdd => True
  | .gfMul => True
  | .gfDiv => s.gfB ≠ 0
  | .gfInv => s.gfA ≠ 0
  | .gfExp => True
  | .gfLog => True
  | .gfMac => True
  | .gfHorner => True
  | .synCalc pad => padInRange pad = true
  | .decCorrect pad => padInRange pad = true
  | .chkInit => True
  | .chkSetmax size => sizeInRange s.cfg size = true
  | .wrCtrl _ => True
  | .encData _ => s.status.encActive = true ∧ s.encCount.toNat ≠ messageLength s.encPad
  | .wrGfA _ => True
  | .wrGfB _ => True
  | .wrGfR _ => True
  | .chkData _ => s.status.chkActive = true
  | .wrCw k _ => k ≠ 255

/-- The effect, before irq is recomputed. -/
def effect (i : Instr) (s : State) : State :=
  match i with
  | .nop => s
  | .softReset => s.resetRegisters
  | .clrStatus mask => s.clearStatus mask
  | .encInit pad => { s with
      parity := zeroParity, encPad := pad, encCount := 0,
      status := { s.status with encActive := true, pvalid := false } }
  | .encFinish => { s with status := { s.status with encActive := false, pvalid := true } }
  | .encBlock pad =>
      ({ s with status := { s.status with encActive := false, pvalid := false } } : State).startJob (.encBlock pad)
  | .gfAdd => { s with gfR := s.gfA ^^^ s.gfB }
  | .gfMul => { s with gfR := gmul s.rom s.gfA s.gfB }
  | .gfDiv => { s with gfR := gdiv s.rom s.gfA s.gfB }
  | .gfInv => { s with gfR := ginv s.rom s.gfA }
  | .gfExp => { s with gfR := s.rom.alpha s.gfA }
  | .gfLog => { s with gfR := s.rom.index s.gfA }
  | .gfMac => { s with gfR := s.gfR ^^^ gmul s.rom s.gfA s.gfB }
  | .gfHorner => { s with gfR := gmul s.rom s.gfR s.gfB ^^^ s.gfA }
  | .synCalc pad => ({ s with status := { s.status with synZero := false } } : State).startJob (.synCalc pad)
  | .decCorrect pad =>
      ({ s with status := { s.status with synZero := false, decFail := false } } : State).startJob (.decCorrect pad)
  | .chkInit => { s with
      chkCount := 0, chkSum := 0, chkId := 0, chkLen := 0, chkTrailer := 0,
      status := { s.status with chkActive := true, chkRes := .none, chkEchoMatch := false } }
  | .chkSetmax size => { s with chkMax := size }
  | .wrCtrl data => { s with ctrl := storedCtrl s.cfg.hasChk data }
  | .encData data => { s with parity := encStep s.rom s.parity (byteOperand data), encCount := s.encCount + 1 }
  | .wrGfA data => { s with gfA := byteOperand data }
  | .wrGfB data => { s with gfB := byteOperand data }
  | .wrGfR data => { s with gfR := byteOperand data }
  | .chkData data => s.feedPackage (byteOperand data)
  | .wrCw k data => { s with cw := s.cw.write k.toNat (byteOperand data) }

/-- A meaning under the busy rule whose body is its effect. -/
theorem exec_of_plain {a : BusWrite} {s u t : State} (h : unlessBusy a s (complete u) = .next t) :
    (∃ code info, code ≠ .none ∧ t = s.rejected code info) ∨ (s.ready ∧ t = u.settleIrq) := by
  rcases unlessBusy_next h with ⟨_, rfl⟩ | ⟨hr, h⟩
  · exact .inl ⟨_, _, by nofun, rfl⟩
  · rw [complete_eq] at h
    cases h
    exact .inr ⟨hr, rfl⟩

/-- A meaning under the busy rule whose body is its effect or an error. -/
theorem exec_of_checked {a : BusWrite} {s u t : State} {p : Prop} [Decidable p] {code : ErrCode} {info : Word}
    (hc : code ≠ .none)
    (h : unlessBusy a s (if p then complete u else raiseError code info s) = .next t) :
    (∃ code info, code ≠ .none ∧ t = s.rejected code info) ∨ (s.ready ∧ p ∧ t = u.settleIrq) := by
  rcases unlessBusy_next h with ⟨_, rfl⟩ | ⟨hr, h⟩
  · exact .inl ⟨_, _, by nofun, rfl⟩
  · by_cases hp : p
    · rw [if_pos hp, complete_eq] at h
      cases h
      exact .inr ⟨hr, hp, rfl⟩
    · rw [if_neg hp, raiseError_eq] at h
      cases h
      exact .inl ⟨_, _, hc, rfl⟩

/-- An instruction that answers a next state either rejected its write or had its effect. -/
theorem exec_cases {i : Instr} {s t : State} (h : exec i s = .next t) :
    (∃ code info, code ≠ .none ∧ t = s.rejected code info) ∨ (accepts i s ∧ t = (effect i s).settleIrq) := by
  have plain {j : Instr} {a : BusWrite} {u : State} (h : unlessBusy a s (complete u) = .next t)
      (ha : s.ready → accepts j s) (hu : effect j s = u) :
      (∃ code info, code ≠ .none ∧ t = s.rejected code info) ∨ (accepts j s ∧ t = (effect j s).settleIrq) := by
    rcases exec_of_plain h with h | ⟨hr, rfl⟩
    · exact .inl h
    · exact .inr ⟨ha hr, by rw [hu]⟩
  cases i with
  | nop => exact plain h (fun hr => ⟨fun _ => hr, nofun, trivial⟩) rfl
  | softReset => cases h; exact .inr ⟨⟨fun hn => absurd rfl hn, nofun, trivial⟩, rfl⟩
  | clrStatus mask => exact plain h (fun hr => ⟨fun _ => hr, nofun, trivial⟩) rfl
  | encInit pad =>
    rcases exec_of_checked (by nofun) h with h | ⟨hr, hp, rfl⟩
    · exact .inl h
    · exact .inr ⟨⟨fun _ => hr, nofun, hp⟩, rfl⟩
  | encFinish =>
    rcases unlessBusy_next h with ⟨_, rfl⟩ | ⟨hr, h⟩
    · exact .inl ⟨_, _, by nofun, rfl⟩
    · split at h
      · cases h; exact .inl ⟨_, _, by nofun, rfl⟩
      · split at h
        · cases h; exact .inl ⟨_, _, by nofun, rfl⟩
        · next h1 h2 =>
          cases h
          exact .inr ⟨⟨fun _ => hr, nofun, by simpa using h1, not_not.mp h2⟩, rfl⟩
  | encBlock pad =>
    rcases exec_of_checked (by nofun) h with h | ⟨hr, hp, rfl⟩
    · exact .inl h
    · exact .inr ⟨⟨fun _ => hr, nofun, hp⟩, rfl⟩
  | gfAdd => exact plain h (fun hr => ⟨fun _ => hr, nofun, trivial⟩) rfl
  | gfMul => exact plain h (fun hr => ⟨fun _ => hr, nofun, trivial⟩) rfl
  | gfDiv =>
    rcases unlessBusy_next h with ⟨_, rfl⟩ | ⟨hr, h⟩
    · exact .inl ⟨_, _, by nofun, rfl⟩
    · split at h
      · cases h; exact .inl ⟨_, _, by nofun, rfl⟩
      · next hb => cases h; exact .inr ⟨⟨fun _ => hr, nofun, hb⟩, rfl⟩
  | gfInv =>
    rcases unlessBusy_next h with ⟨_, rfl⟩ | ⟨hr, h⟩
    · exact .inl ⟨_, _, by nofun, rfl⟩
    · split at h
      · cases h; exact .inl ⟨_, _, by nofun, rfl⟩
      · next hb => cases h; exact .inr ⟨⟨fun _ => hr, nofun, hb⟩, rfl⟩
  | gfExp => exact plain h (fun hr => ⟨fun _ => hr, nofun, trivial⟩) rfl
  | gfLog => exact plain h (fun hr => ⟨fun _ => hr, nofun, trivial⟩) rfl
  | gfMac => exact plain h (fun hr => ⟨fun _ => hr, nofun, trivial⟩) rfl
  | gfHorner => exact plain h (fun hr => ⟨fun _ => hr, nofun, trivial⟩) rfl
  | synCalc pad =>
    rcases exec_of_checked (by nofun) h with h | ⟨hr, hp, rfl⟩
    · exact .inl h
    · exact .inr ⟨⟨fun _ => hr, nofun, hp⟩, rfl⟩
  | decCorrect pad =>
    rcases exec_of_checked (by nofun) h with h | ⟨hr, hp, rfl⟩
    · exact .inl h
    · exact .inr ⟨⟨fun _ => hr, nofun, hp⟩, rfl⟩
  | chkInit =>
    rcases exec_of_checked (by nofun) h with h | ⟨hr, hp, rfl⟩
    · exact .inl h
    · exact .inr ⟨⟨fun _ => hr, fun _ => hp, trivial⟩, rfl⟩
  | chkSetmax size =>
    rcases unlessBusy_next h with ⟨_, rfl⟩ | ⟨hr, h⟩
    · exact .inl ⟨_, _, by nofun, rfl⟩
    · cases hk : s.cfg.hasChk with
      | false =>
        rw [withChkCommand_of_absent hk] at h
        cases h; exact .inl ⟨_, _, by nofun, rfl⟩
      | true =>
        rw [withChkCommand_of_present hk] at h
        split at h
        · next hs => cases h; exact .inr ⟨⟨fun _ => hr, fun _ => hk, hs⟩, rfl⟩
        · cases h; exact .inl ⟨_, _, by nofun, rfl⟩
  | wrCtrl data => exact plain h (fun hr => ⟨fun _ => hr, nofun, trivial⟩) rfl
  | encData data =>
    rcases unlessBusy_next h with ⟨_, rfl⟩ | ⟨hr, h⟩
    · exact .inl ⟨_, _, by nofun, rfl⟩
    · split at h
      · cases h; exact .inl ⟨_, _, by nofun, rfl⟩
      · split at h
        · cases h; exact .inl ⟨_, _, by nofun, rfl⟩
        · next h1 h2 =>
          cases h
          exact .inr ⟨⟨fun _ => hr, nofun, by simpa using h1, h2⟩, rfl⟩
  | wrGfA data => exact plain h (fun hr => ⟨fun _ => hr, nofun, trivial⟩) rfl
  | wrGfB data => exact plain h (fun hr => ⟨fun _ => hr, nofun, trivial⟩) rfl
  | wrGfR data => exact plain h (fun hr => ⟨fun _ => hr, nofun, trivial⟩) rfl
  | chkData data =>
    cases hk : s.cfg.hasChk with
    | false =>
      simp only [exec, execChkData, hk, Bool.false_eq_true, if_false, raiseError_eq] at h
      cases h; exact .inl ⟨_, _, by nofun, rfl⟩
    | true =>
      simp only [exec, execChkData, hk, if_true] at h
      rcases exec_of_checked (by nofun) h with h | ⟨hr, hp, rfl⟩
      · exact .inl h
      · exact .inr ⟨⟨fun _ => hr, fun _ => hk, hp⟩, rfl⟩
  | wrCw k data =>
    by_cases hk : k = 255
    · simp only [exec, execWrCw, if_pos hk, raiseError_eq] at h
      cases h; exact .inl ⟨_, _, by nofun, rfl⟩
    · simp only [exec, execWrCw, if_neg hk] at h
      exact plain h (fun hr => ⟨fun _ => hr, nofun, hk⟩) rfl

end Sys2Proof.Machine
end

