-- ==== Sys2Proof/Laws/Memory.lean ====
section
/-! SUPPORT. The laws of the codeword buffer: a byte written is read back, the others stay, and every write keeps the
canonical form. -/

namespace Sys2Proof.Machine

/-! ## Reading after writing -/

theorem readCells_writeCells_same (cells : List Host.Cell) (k : Nat) (v : Byte) :
    readCells (writeCells cells k v) k = some v := by
  induction cells with
  | nil => simp [writeCells, readCells]
  | cons c cells ih =>
    obtain ⟨a, b⟩ := c
    by_cases hlt : k < a
    · simp [writeCells, readCells, hlt]
    · by_cases heq : k = a
      · simp [writeCells, readCells, heq]
      · have : a ≠ k := fun h => heq h.symm
        simp [writeCells, readCells, hlt, heq, this, ih]

theorem readCells_writeCells_other (cells : List Host.Cell) {j k : Nat} (v : Byte) (h : j ≠ k) :
    readCells (writeCells cells k v) j = readCells cells j := by
  have hkj : k ≠ j := fun e => h e.symm
  induction cells with
  | nil => simp [writeCells, readCells, hkj]
  | cons c cells ih =>
    obtain ⟨a, b⟩ := c
    by_cases hlt : k < a
    · simp [writeCells, readCells, hlt, hkj]
    · by_cases heq : k = a
      · subst heq
        simp [writeCells, readCells, hkj]
      · simp only [writeCells, hlt, heq, if_false, readCells, ih]

@[simp] theorem Memory.read_write_same (m : Memory) (k : Nat) (v : Byte) : (m.write k v).read k = some v :=
  readCells_writeCells_same m.cells k v

theorem Memory.read_write_other (m : Memory) {j k : Nat} (v : Byte) (h : j ≠ k) :
    (m.write k v).read j = m.read j :=
  readCells_writeCells_other m.cells v h

/-- An index that no written pair has reads as before. -/
theorem Memory.read_writeAll_other (m : Memory) (bytes : List (Nat × Byte)) {j : Nat}
    (h : ∀ kv ∈ bytes, kv.1 ≠ j) : (m.writeAll bytes).read j = m.read j := by
  unfold Memory.writeAll
  induction bytes generalizing m with
  | nil => rfl
  | cons kv bytes ih =>
    simp only [List.foldl_cons]
    rw [ih _ fun x hx => h x (List.mem_cons_of_mem _ hx)]
    exact m.read_write_other kv.2 fun e => h kv (by simp) e.symm

/-- Among written pairs with distinct indices, each is read back. -/
theorem Memory.read_writeAll_mem (m : Memory) {bytes : List (Nat × Byte)} (hd : (bytes.map Prod.fst).Nodup)
    {k : Nat} {v : Byte} (h : (k, v) ∈ bytes) : (m.writeAll bytes).read k = some v := by
  induction bytes generalizing m with
  | nil => simp at h
  | cons kv bytes ih =>
    simp only [List.map_cons, List.nodup_cons] at hd
    rcases List.mem_cons.mp h with rfl | h
    · show ((m.write k v).writeAll bytes).read k = some v
      rw [Memory.read_writeAll_other _ _ fun x hx e => hd.1 (List.mem_map.mpr ⟨x, hx, e⟩)]
      exact m.read_write_same k v
    · exact ih (m.write kv.1 kv.2) hd.2 h

/-! ## The canonical form -/

/-- Every cell of a written list is an old cell or the new one. -/
theorem mem_writeCells {cells : List Host.Cell} {k : Nat} {v : Byte} {c : Host.Cell}
    (h : c ∈ writeCells cells k v) : c ∈ cells ∨ c = (k, v) := by
  induction cells with
  | nil => simpa [writeCells] using h
  | cons d cells ih =>
    obtain ⟨a, b⟩ := d
    by_cases hlt : k < a
    · simp only [writeCells, hlt, if_true, List.mem_cons] at h ⊢; tauto
    · by_cases heq : k = a
      · subst heq
        simp only [writeCells, lt_irrefl, if_false, if_true, List.mem_cons] at h ⊢
        tauto
      · simp only [writeCells, hlt, heq, if_false, List.mem_cons] at h ⊢
        rcases h with h | h
        · exact .inl (.inl h)
        · rcases ih h with h | h
          · exact .inl (.inr h)
          · exact .inr h

theorem writeCells_sorted {cells : List Host.Cell} (k : Nat) (v : Byte)
    (h : cells.Pairwise fun a b => a.1 < b.1) : (writeCells cells k v).Pairwise fun a b => a.1 < b.1 := by
  induction cells with
  | nil => simp [writeCells]
  | cons d cells ih =>
    obtain ⟨a, b⟩ := d
    obtain ⟨hd, hs⟩ := List.pairwise_cons.mp h
    by_cases hlt : k < a
    · simp only [writeCells, hlt, if_true, List.pairwise_cons]
      refine ⟨fun c hc => ?_, hd, hs⟩
      rcases List.mem_cons.mp hc with rfl | hc
      · exact hlt
      · exact lt_trans hlt (hd c hc)
    · by_cases heq : k = a
      · subst heq
        simp only [writeCells, lt_irrefl, if_false, if_true, List.pairwise_cons]
        exact ⟨hd, hs⟩
      · simp only [writeCells, hlt, heq, if_false, List.pairwise_cons]
        refine ⟨fun c hc => ?_, ih hs⟩
        rcases mem_writeCells hc with hc | rfl
        · exact hd c hc
        · show a < k
          omega

/-- A write of a byte of CW keeps the canonical form. -/
theorem Memory.write_wf {m : Memory} (h : m.wf) {k : Nat} (hk : k < Config.nn) (v : Byte) : (m.write k v).wf := by
  refine ⟨writeCells_sorted k v h.1, fun c hc => ?_⟩
  rcases mem_writeCells hc with hc | rfl
  · exact h.2 c hc
  · exact hk

/-- Writes of several bytes of CW keep it. -/
theorem Memory.writeAll_wf {m : Memory} (h : m.wf) {bytes : List (Nat × Byte)} (hb : ∀ kv ∈ bytes, kv.1 < Config.nn) :
    (m.writeAll bytes).wf := by
  unfold Memory.writeAll
  induction bytes generalizing m with
  | nil => exact h
  | cons kv bytes ih =>
    exact ih (Memory.write_wf h (hb kv (by simp)) kv.2) fun x hx => hb x (List.mem_cons_of_mem _ hx)

end Sys2Proof.Machine
end

