-- ==== Sys2Proof/Laws/Packed.lean ====
section
/-! SUPPORT. The printed tables as two numbers, and products and syndromes on numbers: the same values as the model's, in a
form that a kernel evaluates fast. -/

namespace Sys2Proof.Machine

/-- `alpha_to` as one number, the first entry highest. -/
def packedAlphaTo : Nat :=
  0x0102040810204080878995ADDD3D7AF46FDE3B76EC5FBEFB71E243868B91A5CD1D3A74E857AEDB3162C40F1E3C78F067CE1B366CD8376EDC3F7EFC7FFE7BF66BD62B56ACDF3972E44F9EBBF165CA13264C98B7E955AAD32142848F99B5ED5DBAF361C203060C183060C0070E1C3870E0478E9BB1E54D9AB3E1458A93A1C50D1A3468D0274E9CBFF975EA53A6CB1122448897A9D52D5AB4EF59B2E341828381858D9DBDFD7DFA73E64B96ABD1254A94AFD9356AD42F5EBCFF79F263C60B162C58B0E74992A3C1050A142850A0C70912244890A7C9152A54A8D72952A4CF193264C8172E5CB8F769D223468C9FB9F56DDA3366CC1F3E7CF877EE5BB6EB51A2C300

/-- `index_of` as one number, the first entry highest. -/
def packedIndexOf : Nat :=
  0xFF00016302C6646A03CDC7BC657E6B2A048DCE4EC8D4BDE166DD7F316C202BF305578EE8CFAC4F83C9D9D541BE94E2B46727DEF080B132356D4521122C0DF438069B581A8F79E970D0C2ADA850758448CAFCDA8AD6544224BF9895F9E35EB515686128BADF4CF12F81E6B23F33EE36106E1846A6228813F72DB80E3DF5A4393B079E9C9D599F1B0890097A1CEAA0715AD11DC37BAE0AA991515B767285A149EBCB7CFDC4DB1E8BD2D79255AA430B25AFC0739977965CFA52E4EC5F4AB6A2168669C562FE297DBBCCE0D34D8CF21F30DC82ABE756B39340D834B0EF26370C11446F78199A4774A7C1235389FB145DF8972E4BB9600FED3EE5F687A5173AA33CB7

/-- An entry of a packed table. -/
def packedEntry (table i : Nat) : Nat := table >>> (8 * (255 - i)) % 256

theorem printedAlphaTo_packed :
    printedAlphaTo = (List.range 256).map fun i => BitVec.ofNat 8 (packedEntry packedAlphaTo i) := by decide +kernel

theorem printedIndexOf_packed :
    printedIndexOf = (List.range 256).map fun i => BitVec.ofNat 8 (packedEntry packedIndexOf i) := by decide +kernel

theorem alpha_packed (e : Byte) :
    printedRom.alpha e = BitVec.ofNat 8 (packedEntry packedAlphaTo e.toNat) := by
  have hl : printedRom.alphaTo.toList = printedAlphaTo := rfl
  have he : e.toNat < printedRom.alphaTo.toList.length := by simpa using e.isLt
  have : printedRom.alpha e = printedRom.alphaTo.toList[e.toNat] := (Vector.getElem_toList he).symm
  rw [this, List.getElem_of_eq (hl.trans printedAlphaTo_packed) he, List.getElem_map, List.getElem_range]

theorem index_packed (e : Byte) : printedRom.index e = BitVec.ofNat 8 (packedEntry packedIndexOf e.toNat) := by
  have hl : printedRom.indexOf.toList = printedIndexOf := rfl
  have he : e.toNat < printedRom.indexOf.toList.length := by simpa using e.isLt
  have : printedRom.index e = printedRom.indexOf.toList[e.toNat] := (Vector.getElem_toList he).symm
  rw [this, List.getElem_of_eq (hl.trans printedIndexOf_packed) he, List.getElem_map, List.getElem_range]

/-- The product of the printed tables, on numbers that a kernel evaluates fast. -/
def packedMul (a b : Nat) : Nat :=
  if a = 0 then 0 else if b = 0 then 0
  else packedEntry packedAlphaTo ((packedEntry packedIndexOf a + packedEntry packedIndexOf b) % 255)

theorem packedEntry_lt (t i : Nat) : packedEntry t i < 256 := Nat.mod_lt _ (by decide)

theorem gmul_packed (a b : Byte) : (gmul printedRom a b).toNat = packedMul a.toNat b.toNat := by
  unfold gmul packedMul
  have h0 (x : Byte) : x = 0 ↔ x.toNat = 0 := by rw [← BitVec.toNat_inj]; rfl
  by_cases ha : a.toNat = 0
  · rw [if_pos (.inl ((h0 a).mpr ha)), if_pos ha]; rfl
  by_cases hb : b.toNat = 0
  · rw [if_pos (.inr ((h0 b).mpr hb)), if_neg ha, if_pos hb]; rfl
  rw [if_neg (by rw [h0, h0]; tauto), if_neg ha, if_neg hb, Rom.alphaMod, alpha_packed, index_packed, index_packed,
    mod255]
  have := packedEntry_lt packedIndexOf a.toNat
  have := packedEntry_lt packedIndexOf b.toNat
  simp only [BitVec.toNat_ofNat]
  rw [Nat.mod_eq_of_lt (packedEntry_lt _ _), Nat.mod_eq_of_lt (packedEntry_lt _ _),
    Nat.mod_eq_of_lt (packedEntry_lt _ _), Nat.mod_eq_of_lt (a := _ % 255) (by omega)]

/-- Horner's rule on numbers. -/
def packedHorner (z : Nat) (word : List Nat) : Nat := word.foldl (fun acc c => packedMul acc z ^^^ c) 0

theorem horner_packed (z : Byte) (word : List Byte) :
    (horner printedRom z word).toNat = packedHorner z.toNat (word.map (·.toNat)) := by
  unfold horner packedHorner
  suffices ∀ acc : Byte, (word.foldl (fun acc c => gmul printedRom acc z ^^^ c) acc).toNat =
      (word.map (·.toNat)).foldl (fun acc c => packedMul acc z.toNat ^^^ c) acc.toNat from this 0
  induction word with
  | nil => intro acc; rfl
  | cons c word ih =>
    intro acc
    simp only [List.map_cons, List.foldl_cons]
    rw [ih, BitVec.toNat_xor, gmul_packed]

theorem syndrome_packed (word : List Byte) (i : Nat) :
    (syndrome printedRom word i).toNat =
      packedHorner (packedEntry packedAlphaTo (11 * (112 + i) % 255)) (word.map (·.toNat)) := by
  unfold syndrome
  rw [horner_packed, rootOf, Rom.alphaMod, alpha_packed]
  congr 1
  simp only [BitVec.toNat_ofNat, mod255, Config.prim, Config.fcr]
  rw [Nat.mod_eq_of_lt (packedEntry_lt _ _)]
  rw [Nat.mod_eq_of_lt (a := _ % 255) (by omega)]

end Sys2Proof.Machine
end

