-- ==== Sys2Proof/Laws/PerInstr.lean ====
section
/-! SUPPORT. A statement about every instruction as syntax, one lemma for each constructor. -/

namespace Sys2Proof.Laws.EncodeLegal

/-- The encoding of a well-formed instruction is a 32-bit write to a mapped register that is not read-only, so it passes
the access checks of 60_exceptions R244 (steps 1 and 2). -/
def Statement (i : Instr) : Prop :=
  i.wf = true → (encode i).size = .four ∧ ∃ r, regAt true (encode i).off = some r ∧ r.access ≠ .ro

/-- The shape shared by all commands. -/
theorem of_command (w : Word) :
    (commandWrite w).size = .four ∧ ∃ r, regAt true (commandWrite w).off = some r ∧ r.access ≠ .ro :=
  ⟨rfl, .cmd, (by decide : regAt true 0x014 = some .cmd), by decide⟩

/-- The shape shared by the ports. -/
theorem of_port {off : Offset} {r : Reg} (data : Word) (h : regAt true off = some r) (hr : r.access ≠ .ro) :
    (portWrite off data).size = .four ∧ ∃ r, regAt true (portWrite off data).off = some r ∧ r.access ≠ .ro :=
  ⟨rfl, r, h, hr⟩

theorem nop : Statement .nop := fun _ => of_command _
theorem softReset : Statement .softReset := fun _ => of_command _
theorem clrStatus (mask : BitVec 3) : Statement (.clrStatus mask) := fun _ => of_command _
theorem encInit (pad : Byte) : Statement (.encInit pad) := fun _ => of_command _
theorem encFinish : Statement .encFinish := fun _ => of_command _
theorem encBlock (pad : Byte) : Statement (.encBlock pad) := fun _ => of_command _
theorem gfAdd : Statement .gfAdd := fun _ => of_command _
theorem gfMul : Statement .gfMul := fun _ => of_command _
theorem gfDiv : Statement .gfDiv := fun _ => of_command _
theorem gfInv : Statement .gfInv := fun _ => of_command _
theorem gfExp : Statement .gfExp := fun _ => of_command _
theorem gfLog : Statement .gfLog := fun _ => of_command _
theorem gfMac : Statement .gfMac := fun _ => of_command _
theorem gfHorner : Statement .gfHorner := fun _ => of_command _
theorem synCalc (pad : Byte) : Statement (.synCalc pad) := fun _ => of_command _
theorem decCorrect (pad : Byte) : Statement (.decCorrect pad) := fun _ => of_command _
theorem chkInit : Statement .chkInit := fun _ => of_command _
theorem chkSetmax (size : BitVec 16) : Statement (.chkSetmax size) := fun _ => of_command _
theorem wrCtrl (data : Word) : Statement (.wrCtrl data) := fun _ => of_port (r := .ctrl) data (by decide) (by decide)
theorem encData (data : Word) : Statement (.encData data) := fun _ => of_port (r := .encData) data (by decide) (by decide)
theorem wrGfA (data : Word) : Statement (.wrGfA data) := fun _ => of_port (r := .gfA) data (by decide) (by decide)
theorem wrGfB (data : Word) : Statement (.wrGfB data) := fun _ => of_port (r := .gfB) data (by decide) (by decide)
theorem wrGfR (data : Word) : Statement (.wrGfR data) := fun _ => of_port (r := .gfR) data (by decide) (by decide)
theorem chkData (data : Word) : Statement (.chkData data) := fun _ => of_port (r := .chkData) data (by decide) (by decide)
theorem wrCw (k : Byte) (data : Word) : Statement (.wrCw k data) := fun h =>
  of_port data (regAt_cwOffset true k (by simpa [Instr.wf] using h)) nofun

end Sys2Proof.Laws.EncodeLegal
end

