-- ==== Sys2Proof/Laws/Step.lean ====
section
/-! SUPPORT. What a bus write, a turn and a step can answer. -/

namespace Sys2Proof.Machine

/-- A bus write runs the instruction that it is, or is rejected. -/
theorem busWrite_cases {a : BusWrite} {s t : State} (h : busWrite a s = .next t) :
    (∃ code info, code ≠ .none ∧ t = s.rejected code info) ∨
    ∃ i, decodeWrite s.cfg.hasChk a = .ok i ∧ exec i s = .next t := by
  unfold busWrite at h
  split at h
  · next i hi => exact .inr ⟨i, hi, h⟩
  · cases h; exact .inl ⟨_, _, by nofun, rfl⟩
  · rcases unlessBusy_next h with ⟨_, rfl⟩ | ⟨_, h⟩
    · exact .inl ⟨_, _, by nofun, rfl⟩
    · cases h; exact .inl ⟨_, _, by nofun, rfl⟩
  · rcases unlessBusy_next h with ⟨_, rfl⟩ | ⟨_, h⟩
    · exact .inl ⟨_, _, by nofun, rfl⟩
    · cases h; exact .inl ⟨_, _, by nofun, rfl⟩

/-- A read changes the model's own record of reads only. -/
theorem busRead_frame (off : Offset) (size : Size) (s : State) :
    ∃ rdata draws, busRead off size s = { s with rdata := rdata, draws := draws } := by
  unfold busRead
  split
  · exact ⟨_, _, rfl⟩
  · exact ⟨_, s.draws, rfl⟩

/-- An engine turn completes the pending job, if there is one. -/
theorem engineTurn_cases {s t : State} (h : engineTurn s = .next t) :
    (s.job = none ∧ t = s) ∨ ((∃ job, s.job = some job) ∧ t = (engineStep s).settleIrq) := by
  unfold engineTurn at h
  split at h
  · next hj => cases h; exact .inl ⟨hj, rfl⟩
  · next j hj => cases h; exact .inr ⟨⟨j, hj⟩, rfl⟩

/-- What a turn can do: a read, an engine turn, a bus write, a reset or a power-up. -/
theorem runTurn_cases {turn : Turn} {s t : State} (h : runTurn turn s = .next t) :
    (∃ a : BusWrite, busWrite a s = .next t) ∨ (∃ off size, t = busRead off size s) ∨
    engineTurn s = .next t ∨ t = s.resetRegisters.settleIrq ∨ t = (powerUp s).settleIrq := by
  unfold runTurn at h
  split at h
  · split at h
    · cases h
    · exact .inl ⟨_, h⟩
  · split at h
    · cases h
    · cases h; exact .inr (.inl ⟨_, _, rfl⟩)
  · exact .inr (.inr (.inl h))
  · cases h; exact .inr (.inr (.inr (.inl rfl)))
  · cases h; exact .inr (.inr (.inr (.inr rfl)))

/-- A step that answers a next state had legal parameters, and ran the next turn, or the engine's where the agenda was
empty. -/
theorem step_cases {s t : State} (h : step s = .next t) :
    configOk s.cfg = true ∧
    ((s.agenda = [] ∧ engineTurn s = .next t) ∨
     ∃ turn rest, s.agenda = turn :: rest ∧ runTurn turn { s with agenda := rest } = .next t) := by
  unfold step at h
  split at h
  · next hc =>
    refine ⟨hc, ?_⟩
    split at h
    · next ha => exact .inl ⟨ha, h⟩
    · next turn rest ha => exact .inr ⟨turn, rest, ha, h⟩
  · cases h

/-- The platform routes the host's write to its offset. -/
theorem routedOffset_base (cfg : Config) (h : cfg.rsBase % 0x800 = 0) (off : Offset) :
    routedOffset cfg (cfg.rsBase + off.toNat) = some off := by
  have hlt := off.isLt
  have hr : cfg.rsBase ≤ cfg.rsBase + off.toNat ∧ cfg.rsBase + off.toNat < cfg.rsBase + 0x800 := by omega
  simp only [routedOffset, if_pos hr, Option.some.injEq]
  apply BitVec.eq_of_toNat_eq
  rw [BitVec.toNat_ofNat]
  omega

end Sys2Proof.Machine
end

