-- ==== Sys2Proof/Tests/Slice0.lean ====
section
/-! SUPPORT. Tests of the model: the syntax check, words written out from the spec's encodings, single steps with the values
of 95_test_vectors (V-..) or of the rule named, and a witness for the hypotheses of every statement. -/

namespace Sys2Proof.Tests

open Sys2Proof Sys2Proof.Machine

-- The kernel evaluates the theorems below one after the other, which bounds the memory that they take together.
set_option Elab.async false

/-! ## Small states -/

/-- One part of a next state. -/
def seen {α : Type} (part : State → α) : Result → Option α
  | .next t => some (part t)
  | .fault _ => none
  | .refused _ => none

/-- A read of STATUS. -/
def statusOf (s : State) : Word := statusWord s.cfg.hasChk s.status s.irq

/-- After reset, with the GF registers set. -/
def gfState (a b r : Byte) : State := { State.reset with gfA := a, gfB := b, gfR := r }

/-- After reset, with bytes written to CW from an index on. -/
def cwState (k : Nat) (bytes : List Byte) : State :=
  { State.reset with cw := { cells := (List.range' k bytes.length).zip bytes } }

/-- With a job pending. -/
def withJob (job : Job) (s : State) : State :=
  { s with job := some job, status := { s.status with busy := true } }

/-- After reset, with a streaming encode open. -/
def encState (pad count : Byte) : State :=
  { State.reset with encPad := pad, encCount := count, status := { Status.reset with encActive := true } }

/-- After reset, with a package open. -/
def chkState (count : BitVec 17) (len trailer : BitVec 16) (sum : Byte) : State :=
  { State.reset with
    chkCount := count, chkLen := len, chkTrailer := trailer, chkSum := sum,
    status := { Status.reset with chkActive := true } }

/-- After reset, with an error recorded. -/
def errState : State :=
  { State.reset with errInfo := 0xE012, status := { Status.reset with err := true, errCode := .badPad } }

/-- After reset, in a block without the validator. -/
def noChkState : State := { State.reset with cfg := { Config.default with hasChk := false } }

/-- A word of 32 symbols with no codeword of C(223) within distance 16: the product of the `x - r_i` for i = 0..30, whose
syndromes are 0 but for the last. -/
def farWord : List Byte :=
  [1, 69, 2, 106, 9, 240, 137, 51, 234, 138, 242, 146, 91, 248, 223, 192] ++
  [92, 212, 153, 233, 59, 81, 106, 188, 118, 29, 252, 18, 75, 159, 132, 21]

/-- The syndromes of `farWord`. -/
def farSyndromes : List Byte := List.replicate 31 0 ++ [49]

/-- V-ENC-2 as a codeword of C(222): the message byte 01 and its parity, the generator polynomial. -/
def generatorWord : List Byte :=
  [0x01, 0x5B, 0x7F, 0x56, 0x10, 0x1E, 0x0D, 0xEB, 0x61, 0xA5, 0x08] ++
  [0x2A, 0x36, 0x56, 0xAB, 0x20, 0x71, 0x20, 0xAB, 0x56, 0x36, 0x2A] ++
  [0x08, 0xA5, 0x61, 0xEB, 0x0D, 0x1E, 0x10, 0x56, 0x7F, 0x5B, 0x01]

/-! ## WellFormed (30_encoding R87) -/

theorem test_wf_refuses_cw_255 : Instr.wf (.wrCw 255 0) = false := by decide
theorem test_wf_accepts_cw_254 : Instr.wf (.wrCw 254 0) = true := by decide

/-! ## Decoding: one word of every row, from the encodings of 30_encoding R81, R83, R87 -/

/-- A word written to CMD, in a block with the validator. -/
def decodesTo (w : Word) (i : Instr) : Prop := decodeWrite true ⟨0x014, .four, w⟩ = .ok i

/-- ARGB = 0, ARGA = 219 = 0b11011011, OPC = 0b00010000. -/
theorem test_decode_encInit_bits : decodesTo 0b0000000000000000_11011011_00010000 (.encInit 219) := by
  unfold decodesTo; decide
/-- ARGB = 134 = 0b10000110, ARGA = 0, OPC = 0b01000001. -/
theorem test_decode_chkSetmax_bits : decodesTo 0b0000000010000110_00000000_01000001 (.chkSetmax 134) := by
  unfold decodesTo; decide
/-- ARGA[2:0] = 0b101, OPC = 0b00000010. -/
theorem test_decode_clrStatus_bits : decodesTo 0b0000000000000000_00000_101_00000010 (.clrStatus 5) := by
  unfold decodesTo; decide
/-- OPC = 0b00100111. -/
theorem test_decode_gfHorner_bits : decodesTo 0b0000000000000000_00000000_00100111 .gfHorner := by
  unfold decodesTo; decide
/-- ARGA = 223 = 0b11011111, OPC = 0b00110000. -/
theorem test_decode_synCalc_bits : decodesTo 0b0000000000000000_11011111_00110000 (.synCalc 223) := by
  unfold decodesTo; decide

theorem test_decode_control :
    decodesTo 0x00000000 .nop ∧ decodesTo 0x00000001 .softReset ∧ decodesTo 0x00000702 (.clrStatus 7) := by
  unfold decodesTo; decide
theorem test_decode_encoder :
    decodesTo 0x0000DB10 (.encInit 219) ∧ decodesTo 0x00000011 .encFinish ∧ decodesTo 0x0000DB12 (.encBlock 219) := by
  unfold decodesTo; decide
theorem test_decode_gf :
    decodesTo 0x00000020 .gfAdd ∧ decodesTo 0x00000021 .gfMul ∧ decodesTo 0x00000022 .gfDiv ∧
    decodesTo 0x00000023 .gfInv ∧ decodesTo 0x00000024 .gfExp ∧ decodesTo 0x00000025 .gfLog ∧
    decodesTo 0x00000026 .gfMac ∧ decodesTo 0x00000027 .gfHorner := by
  unfold decodesTo; decide
theorem test_decode_decoder_and_validator :
    decodesTo 0x0000DB30 (.synCalc 219) ∧ decodesTo 0x0000DB31 (.decCorrect 219) ∧ decodesTo 0x00000040 .chkInit ∧
    decodesTo 0x00860041 (.chkSetmax 134) := by
  unfold decodesTo; decide
theorem test_decode_ports :
    decodeWrite true ⟨0x010, .four, 0xFFFFFFFF⟩ = .ok (.wrCtrl 0xFFFFFFFF) ∧
    decodeWrite true ⟨0x020, .four, 0x48⟩ = .ok (.encData 0x48) ∧
    decodeWrite true ⟨0x02C, .four, 0x153⟩ = .ok (.wrGfA 0x153) ∧
    decodeWrite true ⟨0x030, .four, 0x15⟩ = .ok (.wrGfB 0x15) ∧
    decodeWrite true ⟨0x034, .four, 0⟩ = .ok (.wrGfR 0) ∧
    decodeWrite true ⟨0x040, .four, 0x77⟩ = .ok (.chkData 0x77) ∧
    decodeWrite true ⟨0x76C, .four, 0x148⟩ = .ok (.wrCw 219 0x148) ∧
    decodeWrite true ⟨0x7F8, .four, 9⟩ = .ok (.wrCw 254 9) := by
  decide
/-- V-CTL-6 to V-CTL-16, and V-CHK-16. -/
theorem test_decode_rejects :
    decodeWrite true ⟨0x014, .four, 0x00000003⟩ = .error .badOpcode ∧
    decodeWrite true ⟨0x014, .four, 0x0000FF28⟩ = .error .badOpcode ∧
    decodeWrite true ⟨0x014, .four, 0x00000F02⟩ = .error .rsvdArg ∧
    decodeWrite true ⟨0x018, .four, 1⟩ = .error .access ∧ decodeWrite true ⟨0x03C, .four, 7⟩ = .error .access ∧
    decodeWrite true ⟨0x022, .four, 1⟩ = .error .access ∧ decodeWrite true ⟨0x7FC, .four, 9⟩ = .error .access ∧
    decodeWrite true ⟨0x010, .one, 7⟩ = .error .access ∧
    decodeWrite false ⟨0x014, .four, 0x00000040⟩ = .error .badOpcode ∧
    decodeWrite false ⟨0x040, .four, 0xDD⟩ = .error .access := by
  decide
/-- The words of spec/opcode_table.json: a CMD row and PORT rows. -/
theorem test_decode_table_words :
    decodeTableWord 32 0x41 = some (.chkSetmax 0) ∧ decodeTableWord 16 0x40 = some (.chkData 0) ∧
    decodeTableWord 16 0x400 = some (.wrCw 0 0) ∧ decodeTableWord 16 0x10 = some (.wrCtrl 0) := by
  decide +kernel

/-! ## Single steps -/

/-- V-CTL-4. -/
theorem test_nop : seen (fun t => decide (t = State.reset)) (exec .nop State.reset) = some true := by decide +kernel
/-- V-CTL-26. -/
theorem test_softReset_while_busy :
    seen (fun t => (t.job, statusOf t, t.chkMax)) (exec .softReset (withJob (.synCalc 223) (gfState 1 2 3))) =
      some (none, 0, 64) := by decide +kernel
/-- V-CTL-22. -/
theorem test_clrStatus_error : seen (fun t => (statusOf t, t.errInfo)) (exec (.clrStatus 2) errState) = some (0, 0) := by
  decide +kernel
/-- V-CTL-28: mask bit 0 clears DONE, and irq with it. -/
theorem test_clrStatus_done :
    seen statusOf (exec (.clrStatus 1)
      { State.reset with ctrl := 1, irq := true, status := { Status.reset with done := true } }) = some 0 := by
  decide +kernel
/-- V-CTL-19. -/
theorem test_wrCtrl : seen (·.ctrl) (exec (.wrCtrl 0xFFFFFFFF) State.reset) = some 7 := by decide +kernel
/-- V-CTL-21: IE_ERR raises irq on the recorded error. -/
theorem test_wrCtrl_irq : seen statusOf (exec (.wrCtrl 2) errState) = some 0x00030804 := by decide +kernel
/-- V-CTL-17. -/
theorem test_wrGfA : seen (·.gfA) (exec (.wrGfA 0x153) State.reset) = some 0x53 := by decide +kernel
/-- 44_control R214. -/
theorem test_wrGfB : seen (fun t => (t.gfA, t.gfB)) (exec (.wrGfB 0x2CA) State.reset) = some (0, 0xCA) := by
  decide +kernel
/-- 44_control R214. -/
theorem test_wrGfR : seen (fun t => (t.gfB, t.gfR)) (exec (.wrGfR 0x99) State.reset) = some (0, 0x99) := by decide +kernel
/-- V-CTL-18. -/
theorem test_wrCw : seen (·.cw.cells) (exec (.wrCw 219 0x148) State.reset) = some [(219, 0x48)] := by decide +kernel
/-- V-CTL-14, the information of an ACCESS error at 0x7FC. -/
theorem test_wrCw_255 : seen (·.errInfo) (exec (.wrCw 255 9) State.reset) = some 0x87FC0009 := by decide +kernel

/-- V-GF-1. -/
theorem test_gfAdd : seen (·.gfR) (exec .gfAdd (gfState 0x53 0xCA 0)) = some 0x99 := by decide +kernel
/-- V-GF-10: an index sum of 255. -/
theorem test_gfMul_reduces : seen (·.gfR) (exec .gfMul (gfState 0x02 0xC3 0)) = some 0x01 := by decide +kernel
/-- V-GF-3. -/
theorem test_gfMul_zero : seen (·.gfR) (exec .gfMul (gfState 0x00 0x53 0xAA)) = some 0x00 := by decide +kernel
/-- V-GF-11. -/
theorem test_gfDiv : seen (·.gfR) (exec .gfDiv (gfState 0x53 0xCA 0)) = some 0x7B := by decide +kernel
/-- V-GF-15. -/
theorem test_gfDiv_by_zero :
    seen (fun t => (t.gfR, statusOf t, t.errInfo)) (exec .gfDiv (gfState 0x53 0x00 0x5C)) =
      some (0x5C, 0x00080004, 0x00000022) := by decide +kernel
/-- V-GF-20. -/
theorem test_gfInv : seen (·.gfR) (exec .gfInv (gfState 0x53 0 0)) = some 0x4D := by decide +kernel
/-- V-GF-22. -/
theorem test_gfInv_of_zero :
    seen (fun t => (t.gfR, t.errInfo)) (exec .gfInv (gfState 0x00 0 0x5C)) = some (0x5C, 0x00000023) := by
  decide +kernel
/-- V-GF-26. -/
theorem test_gfExp : seen (·.gfR) (exec .gfExp (gfState 0x08 0 0)) = some 0x87 := by decide +kernel
/-- V-GF-31. -/
theorem test_gfExp_255 : seen (·.gfR) (exec .gfExp (gfState 0xFF 0 1)) = some 0x00 := by decide +kernel
/-- V-GF-37. -/
theorem test_gfLog : seen (·.gfR) (exec .gfLog (gfState 0x53 0 0)) = some 0x8A := by decide +kernel
/-- V-GF-32. -/
theorem test_gfLog_of_zero : seen (·.gfR) (exec .gfLog (gfState 0x00 0 0)) = some 0xFF := by decide +kernel
/-- V-GF-39. -/
theorem test_gfMac : seen (·.gfR) (exec .gfMac (gfState 0x02 0x80 0x01)) = some 0x86 := by decide +kernel
/-- V-GF-43. -/
theorem test_gfHorner : seen (·.gfR) (exec .gfHorner (gfState 0x41 0x15 0x48)) = some 0xBB := by decide +kernel

/-- P5 line 2: ENC_INIT 221. -/
theorem test_encInit :
    seen (fun t => (statusOf t, t.encPad, t.encCount)) (exec (.encInit 221) State.reset) = some (0x00000008, 221, 0) := by
  decide +kernel
/-- V-CTL-20's first access, for ENC_INIT: a pad of 224. -/
theorem test_encInit_badPad :
    seen (fun t => (statusOf t, t.errInfo)) (exec (.encInit 224) State.reset) = some (0x00030004, 0x0000E010) := by
  decide +kernel
/-- V-ENC-9: d = 0x40, where an index sum is 255. -/
theorem test_encData :
    seen (fun t => (t.encCount, t.parity[0], t.parity[1], t.parity[30], t.parity[31]))
      (exec (.encData 0x40) (encState 222 0)) = some (1, 0x01, 0x2B, 0x01, 0x40) := by decide +kernel
/-- P5 line 4: one byte too many. -/
theorem test_encData_length :
    seen (fun t => (statusOf t, t.errInfo, t.encCount)) (exec (.encData 0x5A) (encState 221 2)) =
      some (0x0005000C, 0x8020005A, 2) := by decide +kernel
/-- P5 line 9. -/
theorem test_encFinish : seen statusOf (exec .encFinish (encState 221 2)) = some 0x00000010 := by decide +kernel
/-- 41_encoder R146: too few bytes; the encode stays open. -/
theorem test_encFinish_early : seen statusOf (exec .encFinish (encState 221 1)) = some 0x0005000C := by decide +kernel
/-- 41_encoder R147. -/
theorem test_encBlock : seen (fun t => (t.job, statusOf t)) (exec (.encBlock 219) State.reset) =
    some (some (.encBlock 219), 0x00000001) := by decide +kernel
/-- V-ENC-8, completed by the engine: the empty message. -/
theorem test_encBlock_completes :
    seen (fun t => (statusOf t, t.encPad, t.encCount, t.cw.read 223, t.cw.read 254, t.cw.read 222))
      (runTurn .engine (withJob (.encBlock 223) State.reset)) =
      some (0x00000012, 223, 0, some 0, some 0, none) := by decide +kernel

/-- 42_syndrome_decoder R162. -/
theorem test_synCalc : seen (fun t => (t.job, statusOf t)) (exec (.synCalc 223) State.reset) =
    some (some (.synCalc 223), 0x00000001) := by decide +kernel
/-- V-SYN-3 shortened: an error 01 at index 254 gives 01 in every syndrome. -/
theorem test_synCalc_completes :
    seen (fun t => (statusOf t, t.syn[0], t.syn[31]))
      (runTurn .engine (withJob (.synCalc 223) (cwState 223 (List.replicate 31 0 ++ [1])))) =
      some (0x00000002, 1, 1) := by decide +kernel
/-- 42_syndrome_decoder R165, with a pad of 224 (V-DEC command vectors). -/
theorem test_decCorrect_badPad :
    seen (fun t => (t.job, t.errInfo)) (exec (.decCorrect 224) State.reset) = some (none, 0x0000E031) := by
  decide +kernel
/-- V-DEC-1 for the empty message: a codeword is left as it is. -/
theorem test_decCorrect_completes :
    seen (fun t => (statusOf t, t.decNerr)) (runTurn .engine (withJob (.decCorrect 223) (cwState 223 (List.replicate 32 0))))
      = some (0x00000022, 0) := by decide +kernel

/-- V-CHK-15: CHK_INIT. -/
theorem test_chkInit :
    seen (fun t => (statusOf t, t.chkCount)) (exec .chkInit { chkState 9 3 0x6464 0x64 with irq := true }) =
      some (0x00000080, 0) := by decide +kernel
/-- V-CHK-11. -/
theorem test_chkSetmax : seen (fun t => (t.chkMax, statusOf t)) (exec (.chkSetmax 134) State.reset) = some (134, 0) := by
  decide +kernel
/-- V-CHK-10. -/
theorem test_chkSetmax_size :
    seen (fun t => (t.chkMax, statusOf t, t.errInfo)) (exec (.chkSetmax 1025) State.reset) =
      some (64, 0x00090004, 0x04010041) := by decide +kernel
/-- V-CHK-1: the echo byte of a package that passes. -/
theorem test_chkData_verdict :
    seen (fun t => (statusOf t, t.chkCount, t.chkTrailer)) (exec (.chkData 0x64) (chkState 8 3 0x0064 0x64)) =
      some (0x00000500, 9, 0x6464) := by decide +kernel
/-- V-CHK-6: the size guard at the fourth byte. -/
theorem test_chkData_size_guard :
    seen (fun t => (t.status.chkRes, t.chkSum, t.chkLen)) (exec (.chkData 0x00) (chkState 3 0x003B 0 0x3E)) =
      some (.sizeExceeded, 0x3E, 59) := by decide +kernel

/-- V-CTL-23: a write while BUSY. -/
theorem test_busy :
    seen (fun t => (statusOf t, t.errInfo, t.gfA)) (exec (.wrGfA 0x53) (withJob (.synCalc 223) State.reset)) =
      some (0x00060005, 0x802C0053, 0) := by decide +kernel
/-- V-CTL-1 and V-CHK-16: the constant registers. -/
theorem test_read_constants :
    regValue State.reset .param1 = 0x0387FF08 ∧ regValue noChkState .param1 = 0x0187FF08 ∧
    regValue State.reset .chkCapr = 1024 := by decide +kernel
/-- A word of the opcode table is the first instruction that runs. -/
theorem test_withFetchWord :
    seen statusOf (step (State.reset.withFetchWord 32 0xDF10)) = some 0x00000008 := by decide +kernel

/-! ## Witnesses: a concrete state and operands for the hypotheses of every statement, clause by clause -/

/-- For NopHasNoEffect, ClearStatusClearsByMask, CtrlWriteStoresThreeBits and GfRegisterWritesStoreLowByte, whose one
hypothesis is that the block is not busy. -/
theorem witness_ready : State.reset.ready ∧ noChkState.ready ∧ (gfState 1 0 0).ready ∧ errState.ready := by decide

theorem witness_DecodeOfEncode :
    Instr.wf (.wrCw 254 5) = true ∧ (Instr.needsChk (.wrCw 254 5) = true → false = true) ∧
    Instr.wf (.chkSetmax 65535) = true ∧ (Instr.needsChk (.chkSetmax 65535) = true → true = true) := by decide

theorem witness_EncodeOfDecode : decodeWrite false ⟨0x7F8, .four, 0x1FF⟩ = .ok (.wrCw 254 0x1FF) := by decide

theorem witness_CommandWordsFallInThreeClasses :
    (commandTable true).all (fun e => e.1 != opcOf 0x42) = true ∧ State.reset.cfg.hasChk = true ∧ State.reset.ready ∧
    ((opcOf 0x00000802, (0xFFFFF800 : Word)) ∈ commandTable true ∧ (0x00000802 : Word) &&& 0xFFFFF800 ≠ 0) ∧
    ((opcOf 0x00000702, (0xFFFFF800 : Word)) ∈ commandTable true ∧ (0x00000702 : Word) &&& 0xFFFFF800 = 0) := by
  decide +kernel

theorem witness_OnlyTwoNoOpWords :
    State.reset.ready ∧ State.reset.irq = irqLevel State.reset.ctrl State.reset.status := by decide

/-- A write that decodes, a write that does not, a read at the last offset of the window, and an empty agenda. -/
theorem witness_StepRunsDecodedInstruction :
    let write (w : Word) : State := { State.reset with agenda := [.write 0x014 .four w, .engine] }
    let read : State := { State.reset with agenda := [.read 0x7FF .one] }
    configOk Config.default = true ∧
    ((write 0xDB10).agenda = .write ((write 0xDB10).cfg.rsBase + (0x014 : Offset).toNat) .four 0xDB10 :: [.engine] ∧
      decodeWrite true ⟨0x014, .four, 0xDB10⟩ = .ok (.encInit 219)) ∧
    ((write 0x03).agenda = .write ((write 0x03).cfg.rsBase + (0x014 : Offset).toNat) .four 0x03 :: [.engine] ∧
      decodeWrite true ⟨0x014, .four, 0x03⟩ = .error .badOpcode) ∧
    read.agenda = .read (read.cfg.rsBase + (0x7FF : Offset).toNat) .one :: [] ∧ State.reset.agenda = [] := by
  decide +kernel

/-- `configOk` is the conjunction of the conditions of the statement. -/
theorem witness_LegalParametersStepSafely :
    configOk Config.default = true ∧ routedTurn Config.default (.write 0x7FF .one 0) = true ∧
    ¬ (64 ≤ ({ Config.default with chkCap := 63 } : Config).chkCap) := by decide +kernel

theorem witness_PendingJobsEnd :
    let s : State := withJob (.synCalc 223) { State.reset with agenda := [.read 0x018 .four, .write 0x02C .four 0x53] }
    configOk s.cfg = true ∧ (∀ t ∈ s.agenda, routedTurn s.cfg t = true) ∧ s.job ≠ none := by decide +kernel

theorem witness_FirstErrorIsKept : State.reset.status.err = false ∧ errState.status.err = true := by decide

/-- One write for each clause, on an idle block but for the third. -/
theorem witness_WriteChecksInOrder :
    ((0x7FC : Offset).toNat % 4 = 0 ∧ regAt true 0x7FC = none) ∧
    ((0x014 : Offset).toNat % 4 = 0 ∧ regAt true 0x014 = some .cmd ∧ Reg.cmd.access ≠ .ro) ∧
    ((withJob (.synCalc 0) State.reset).status.busy = true ∧ regAt true 0x02C = some .gfA ∧ Reg.gfA.access ≠ .ro) ∧
    (commandTable true).all (fun e => e.1 != opcOf 0x00000003) = true ∧
    ((opcOf 0x00000100, (0xFFFFFF00 : Word)) ∈ commandTable true ∧ (0x00000100 : Word) &&& 0xFFFFFF00 ≠ 0) ∧
    (0x02C : Offset) ≠ 0x014 := by decide +kernel

theorem witness_BusyRejectsAllButSoftReset :
    let s := withJob (.decCorrect 0) State.reset
    s.status.busy = true ∧ Instr.chkInit ≠ .softReset ∧ Instr.wf .chkInit = true ∧
    (Instr.needsChk .chkInit = true → s.cfg.hasChk = true) ∧
    (decodeWrite s.cfg.hasChk ⟨0x014, .four, 0x00000101⟩ ≠ .error .access ∧
      (⟨0x014, .four, 0x00000101⟩ : BusWrite) ≠ ⟨0x014, .four, 0x00000001⟩) ∧
    seen (·.job) (busWrite ⟨0x014, .four, 1⟩ s) = some none := by decide +kernel

theorem witness_IrqFollowsItsFormula :
    (∃ t, runTurn .reset State.reset = .next t) ∧ (∀ addr size, Turn.reset ≠ .read addr size) ∧
    (withJob (.encBlock 223) State.reset).job ≠ none ∧
    (∃ t, runTurn .engine (withJob (.encBlock 223) State.reset) = .next t) :=
  ⟨⟨_, rfl⟩, nofun, nofun, _, rfl⟩

theorem witness_ReadsReturnRegistersAndChangeNothing :
    regAt true 0x03C = none ∧ (0x7FF : Offset).toNat % 4 ≠ 0 ∧ regAt true 0x040 = some .chkData ∧
    Reg.chkData.access = .wo ∧ regAt true 0x7F8 = some (.cw 254) ∧
    State.reset.ready ∧ State.reset.cfg.hasChk = true ∧ 254 ≤ 254 ∧
    (0x03C ≤ (0x03C : Offset).toNat ∧ (0x03F : Offset).toNat < 0x040) ∧
    (0x05C ≤ (0x05C : Offset).toNat ∧ (0x07F : Offset).toNat < 0x080) ∧
    (0x1C0 ≤ (0x1C0 : Offset).toNat ∧ (0x3FF : Offset).toNat < 0x400) ∧ 0x7FC ≤ (0x7FC : Offset).toNat ∧
    ¬ (State.reset.status.busy = true ∧ inJobset (.cw 254) = true) := by decide +kernel

theorem witness_JobsetReadsWhileBusyAreFree :
    (withJob (.encBlock 0) State.reset).status.busy = true ∧ regAt true 0x0FC = some (.parity 31) ∧
    regAt true 0x058 = some .chkTrailer := by decide +kernel

theorem witness_ConstantRegisters :
    Config.default.chkCap ≤ 65535 ∧ ({ Config.default with chkCap := 65535 } : Config).chkCap ≤ 65535 ∧
    (0x00C : Offset).toNat ∈ [0x000, 0x004, 0x008, 0x00C] := by decide

theorem witness_ResetForcesEveryRegister :
    State.reset.ready ∧ (withJob (.synCalc 0) State.reset).status.busy = true ∧ opcOf 0x00000101 = 0x01 ∧
    (0x00000101 : Word) ≠ 0x00000001 := by decide +kernel

theorem witness_CwWriteStoresOneByte : State.reset.ready ∧ (254 : Byte) ≠ 255 ∧ (255 : Byte) = 255 := by decide

theorem witness_GfCommandsComputeTheirPseudocode :
    ((gfState 1 1 0).gfB ≠ 0 ∧ (gfState 1 1 0).gfA ≠ 0) ∧ ((gfState 0 0 0).gfB = 0 ∧ (gfState 0 0 0).gfA = 0) ∧
    ((0x20 : Byte) ≤ 0x20 ∧ (0x20 : Byte) ≤ 0x27) := by decide

theorem witness_HornerEvaluatesPolynomials :
    (gfState 0 2 0).ready ∧ (gfState 0 2 0).gfR = 0 ∧ isPrimitive (gfState 0 2 0).cfg.fieldPoly = true :=
  ⟨by decide, by decide, isPrimitive_default⟩

/-- For TablesArePowersOfAlpha, TableProductIsFieldProduct, GeneratorHasTheCodesRoots, ShorteningIsLeadingZeros and
SyndromesArePolynomialValues, whose one hypothesis is that FIELD_POLY is primitive. -/
theorem witness_primitive : isPrimitive 0x187 = true := isPrimitive_default

theorem witness_FieldLaws : isPrimitive 0x187 = true ∧ (0x53 : Byte) ≠ 0 := ⟨isPrimitive_default, by decide⟩

theorem witness_EncInitOpensEncode :
    State.reset.ready ∧ (223 : Byte).toNat ≤ 223 ∧ (224 : Byte).toNat > 223 := by decide

theorem witness_EncDataFeedsOneByte :
    State.reset.ready ∧ State.reset.status.encActive = false ∧
    ((encState 223 0).ready ∧ (encState 223 0).status.encActive = true ∧
      (encState 223 0).encCount.toNat = 223 - (encState 223 0).encPad.toNat) ∧
    ((encState 0 222).ready ∧ (encState 0 222).status.encActive = true ∧
      (encState 0 222).encCount.toNat ≠ 223 - (encState 0 222).encPad.toNat) := by decide

theorem witness_EncFinishClosesEncode :
    State.reset.ready ∧ State.reset.status.encActive = false ∧
    ((encState 0 222).ready ∧ (encState 0 222).status.encActive = true ∧
      (encState 0 222).encCount.toNat ≠ 223 - (encState 0 222).encPad.toNat) ∧
    ((encState 0 223).ready ∧ (encState 0 223).status.encActive = true ∧
      (encState 0 223).encCount.toNat = 223 - (encState 0 223).encPad.toNat) := by decide

theorem witness_JobsAreAccepted :
    State.reset.ready ∧ (223 : Byte).toNat ≤ 223 ∧ (224 : Byte).toNat > 223 := by decide

theorem witness_EncBlockCompletion :
    (withJob (.encBlock 223) State.reset).job = some (.encBlock 223) ∧ (223 : Byte).toNat ≤ 223 ∧
    (withJob (.encBlock 0) State.reset).job = some (.encBlock 0) ∧ (0 : Byte).toNat ≤ 223 := by decide

theorem witness_StreamingEncodeDependsOnMessageOnly :
    State.reset.ready ∧ (222 : Byte).toNat ≤ 223 ∧ ([0x48] : List Byte).length = 223 - (222 : Byte).toNat := by decide

theorem witness_EncodedMessagesAreCodewords :
    isPrimitive 0x187 = true ∧ 222 ≤ 223 ∧ ([0x48] : List Byte).length = 223 - 222 :=
  ⟨isPrimitive_default, by decide, by decide⟩

theorem witness_SynCalcCompletion :
    (withJob (.synCalc 219) State.reset).job = some (.synCalc 219) := by decide

/-- The received word of a state whose CW was written. -/
theorem word_zero : (cwState 223 (List.replicate 32 0)).receivedWord 223 = List.replicate 32 0 := by decide +kernel

theorem word_far : (cwState 223 farWord).receivedWord 223 = farWord := by decide +kernel

theorem farWord_syndromes : (syndromes printedRom farWord).toList = farSyndromes := by
  have h : ∀ i < 32, packedHorner (packedEntry packedAlphaTo (11 * (112 + i) % 255)) (farWord.map (·.toNat)) =
      (farSyndromes.getD i 0).toNat := by decide +kernel
  have hlen : farSyndromes.length = 32 := by decide
  apply List.ext_getElem (by simp [hlen])
  intro i h₁ h₂
  have hi : i < 32 := by simpa using h₁
  apply BitVec.eq_of_toNat_eq
  rw [Vector.getElem_toList, getElem_syndromes _ _ _ hi, syndrome_packed, h i hi, List.getD_eq_getElem _ _ h₂]

/-- A word too far from the code is not corrected: 32 errors would be needed (42_syndrome_decoder R169 (a)). -/
theorem test_decodeWord_fails : decodeWord printedRom 223 farWord = none :=
  decodeWord_none farWord_syndromes (by decide +kernel)

theorem test_decodeWord_finds : decodeWord printedRom 223 (List.replicate 32 0) = some (List.replicate 32 0) := by
  decide +kernel

/-- Both clauses: a codeword found, and none found. -/
theorem witness_DecCorrectCompletion :
    (withJob (.decCorrect 223) State.reset).job = some (.decCorrect 223) ∧ (223 : Byte).toNat ≤ 223 ∧
    decodeWord printedRom 223 (List.replicate 32 0) = some (List.replicate 32 0) ∧
    (cwState 223 (List.replicate 32 0)).receivedWord 223 = List.replicate 32 0 ∧
    decodeWord printedRom 223 farWord = none ∧ (cwState 223 farWord).receivedWord 223 = farWord :=
  ⟨rfl, by decide, test_decodeWord_finds, word_zero, test_decodeWord_fails, word_far⟩

theorem witness_CorrectorAnswersNearbyCodewords :
    (List.replicate 32 (0 : Byte)).length = 255 - 223 ∧
    decodeWord printedRom 223 (List.replicate 32 0) = some (List.replicate 32 0) :=
  ⟨by decide, test_decodeWord_finds⟩

theorem generatorWord_inCode : inCode printedRom 222 generatorWord := by
  have h : ∀ i < 32, packedHorner (packedEntry packedAlphaTo (11 * (112 + i) % 255)) (generatorWord.map (·.toNat)) =
      0 := by decide +kernel
  refine ⟨by decide, fun i hi => ?_⟩
  apply BitVec.eq_of_toNat_eq
  rw [syndrome_packed, h i hi]
  rfl

theorem zeroWord_inCode : inCode printedRom 222 (List.replicate 33 0) := by
  have h : ∀ i < 32, syndrome printedRom (List.replicate 33 0) i = 0 := by decide +kernel
  exact ⟨by decide, h⟩

theorem witness_CodewordsAreFarApart :
    isPrimitive 0x187 = true ∧ 222 ≤ 223 ∧ inCode (romOf 0x187) 222 (List.replicate 33 0) ∧
    inCode (romOf 0x187) 222 generatorWord ∧ List.replicate 33 0 ≠ generatorWord :=
  ⟨isPrimitive_default, by decide, zeroWord_inCode, generatorWord_inCode, by decide⟩

/-- The generator word with its first two symbols changed. -/
theorem witness_CorrectorFindsEveryNearbyCodeword :
    let word : List Byte := [0xFE, 0x5A] ++ generatorWord.drop 2
    isPrimitive 0x187 = true ∧ 222 ≤ 223 ∧ word.length = 255 - 222 ∧ inCode (romOf 0x187) 222 generatorWord ∧
    distance word generatorWord ≤ 16 ∧ word ≠ generatorWord :=
  ⟨isPrimitive_default, by decide, by decide, generatorWord_inCode, by decide, by decide⟩

theorem witness_ChkInitOpensPackage : State.reset.ready ∧ State.reset.cfg.hasChk = true := by decide

theorem witness_ChkSetmaxBoundsSize :
    State.reset.ready ∧ State.reset.cfg.hasChk = true ∧ (1024 : BitVec 16).toNat ≤ State.reset.cfg.chkCap ∧
    (1025 : BitVec 16).toNat > State.reset.cfg.chkCap := by decide

/-- One state for each position: a closed package, the four header bytes, the first and last payload bytes, the checksum
byte and the echo byte; and both sides of the size guard. -/
theorem witness_ChkDataFeedsOneByte :
    (State.reset.ready ∧ State.reset.cfg.hasChk = true ∧ State.reset.status.chkActive = false) ∧
    (∀ n ∈ [0, 1, 2, 3, 4, 6, 7, 8],
      let s := chkState (BitVec.ofNat 17 n) 3 0 0
      s.ready ∧ s.cfg.hasChk = true ∧ s.status.chkActive = true ∧ s.chkCount.toNat = n ∧ s.chkLen.toNat = 3) ∧
    4 + (0 * 256 + 0x3A % 256) + 2 ≤ State.reset.chkMax.toNat ∧
    4 + (0 * 256 + 0x3B % 256) + 2 > State.reset.chkMax.toNat := by decide

theorem witness_WholePackageVerdict :
    State.reset.ready ∧ State.reset.cfg.hasChk = true ∧
    ([0x10, 0x20, 0x30] : List Byte).length = (3 : Byte).toNat + 256 * (0 : Byte).toNat ∧
    4 + ([0x10, 0x20, 0x30] : List Byte).length + 2 ≤ State.reset.chkMax.toNat := by decide

theorem witness_ValidatorAbsent :
    noChkState.cfg.hasChk = false ∧ 0x040 ≤ (0x058 : Offset).toNat ∧ (0x058 : Offset).toNat ≤ 0x058 ∧
    opcOf 0x00000040 = 0x40 ∧ noChkState.ready ∧
    (∃ t, exec (.wrCtrl 7) noChkState = .next t) :=
  ⟨by decide, by decide, by decide, by decide, by decide, _, rfl⟩

/-- For FrameOfRegisterInstructions, FrameOfEncoderAndJobInstructions and FrameOfValidatorAndStatusInstructions: one
instruction of every group answers a next state. -/
theorem witness_frames :
    (∃ t, exec .gfAdd State.reset = .next t) ∧ (∃ t, exec (.wrGfA 0x53) State.reset = .next t) ∧
    (∃ t, exec (.encInit 223) State.reset = .next t) ∧ (∃ t, exec (.synCalc 223) State.reset = .next t) ∧
    (∃ t, exec (.chkData 1) State.reset = .next t) ∧ (∃ t, exec (.chkSetmax 6) State.reset = .next t) ∧
    (∃ t, exec .nop State.reset = .next t) ∧ (∃ t, exec (.wrCw 254 1) State.reset = .next t) :=
  ⟨⟨_, rfl⟩, ⟨_, rfl⟩, ⟨_, rfl⟩, ⟨_, rfl⟩, ⟨_, rfl⟩, ⟨_, rfl⟩, ⟨_, rfl⟩, ⟨_, rfl⟩⟩

theorem witness_FrameOfEngineCompletion :
    ∃ t, runTurn .engine (withJob (.synCalc 223) State.reset) = .next t := ⟨_, rfl⟩

/-- A step from reset: with nothing on the agenda the block idles. -/
theorem step_reset : step State.reset = .next State.reset := by
  have h : configOk State.reset.cfg = true := by decide +kernel
  unfold step
  rw [if_pos h]
  rfl

theorem witness_RomIsNeverWritten : step State.reset = .next State.reset := step_reset

/-- A CHK_SETMAX write, and a reset of a block whose CHK_MAX is not the reset value. -/
theorem witness_OnlySetmaxAndResetChangeChkMax :
    let s : State := { State.reset with agenda := [State.reset.hostWrite (encode (.chkSetmax 134))] }
    let r : State := { State.reset with chkMax := 134, agenda := [.reset] }
    (seen (·.chkMax) (step s) = some 134 ∧ s.chkMax ≠ 134) ∧ seen (·.chkMax) (step r) = some 64 ∧ r.chkMax ≠ 64 := by
  decide +kernel

/-- A state with an error recorded, from which a step idles. -/
theorem witness_StepKeepsInvariant : errState.Inv ∧ step errState = .next errState := by
  have hc : configOk errState.cfg = true := by decide +kernel
  refine ⟨⟨hc, by decide, rfl, by decide, nofun, by decide, nofun, nofun, by decide, by decide, ?_, ?_, nofun, nofun,
    by decide, nofun, nofun⟩, ?_⟩
  · exact ⟨by decide, by decide +kernel⟩
  · intro m n _ h
    exact absurd h (Nat.not_lt_zero _)
  · unfold step
    rw [if_pos hc]
    rfl

end Sys2Proof.Tests
end

section
/-! PROOFS. The scope statements: what `step` runs (O6), and when it is safe (O8). -/

namespace Sys2Proof.Machine

/-! ## Every operation of the block answers a next state -/

theorem ite_answers {p : Prop} [Decidable p] {r r' : Result} (h : ∃ t, r = .next t) (h' : ∃ t, r' = .next t) :
    ∃ t, (if p then r else r') = .next t := by
  split
  · exact h
  · exact h'

theorem complete_answers (s : State) : ∃ t, complete s = .next t := ⟨_, complete_eq s⟩

theorem raiseError_answers (code : ErrCode) (info : Word) (s : State) : ∃ t, raiseError code info s = .next t :=
  ⟨_, raiseError_eq code info s⟩

/-- No instruction gets stuck: its meaning is a tree of checks whose leaves complete or raise an error. -/
theorem exec_answers (i : Instr) (s : State) : ∃ t, exec i s = .next t := by
  have completes (u : State) := complete_answers u
  have raises (code : ErrCode) (info : Word) := raiseError_answers code info s
  cases i with
  | softReset => exact completes _
  | nop | clrStatus _ | wrCtrl _ | wrGfA _ | wrGfB _ | wrGfR _ | gfAdd | gfMul | gfExp | gfLog | gfMac | gfHorner =>
    exact unlessBusy_answers _ s (completes _)
  | encInit _ | encBlock _ | synCalc _ | decCorrect _ | chkInit =>
    exact unlessBusy_answers _ s (ite_answers (completes _) (raises _ _))
  | gfDiv | gfInv => exact unlessBusy_answers _ s (ite_answers (raises _ _) (completes _))
  | encData _ | encFinish =>
    exact unlessBusy_answers _ s (ite_answers (raises _ _) (ite_answers (raises _ _) (completes _)))
  | chkSetmax _ =>
    exact unlessBusy_answers _ s (ite_answers (ite_answers (completes _) (raises _ _)) (raises _ _))
  | chkData _ =>
    exact ite_answers (unlessBusy_answers _ s (ite_answers (completes _) (raises _ _))) (raises _ _)
  | wrCw _ _ => exact ite_answers (raises _ _) (unlessBusy_answers _ s (completes _))

/-- A bus write that decodes runs its instruction (44_control R219). -/
theorem busWrite_of_decode {a : BusWrite} {s : State} {i : Instr} (h : decodeWrite s.cfg.hasChk a = .ok i) :
    busWrite a s = exec i s := by
  simp only [busWrite, h]

theorem busWrite_answers (a : BusWrite) (s : State) : ∃ t, busWrite a s = .next t := by
  unfold busWrite
  split
  · exact exec_answers _ s
  · exact raiseError_answers _ _ s
  · exact unlessBusy_answers a s (raiseError_answers _ _ s)
  · exact unlessBusy_answers a s (raiseError_answers _ _ s)

theorem engineTurn_answers (s : State) : ∃ t, engineTurn s = .next t := by
  unfold engineTurn
  split
  · exact ⟨s, rfl⟩
  · exact complete_answers _

/-! ## Turns -/

theorem runTurn_write (s : State) {addr : Nat} {off : Offset} (h : routedOffset s.cfg addr = some off)
    (size : Size) (data : Word) : runTurn (.write addr size data) s = busWrite ⟨off, size, data⟩ s := by
  simp only [runTurn, h]

theorem runTurn_read (s : State) {addr : Nat} {off : Offset} (h : routedOffset s.cfg addr = some off)
    (size : Size) : runTurn (.read addr size) s = .next (busRead off size s) := by
  simp only [runTurn, h]

/-- The fault of an access outside the window is the one way in which a turn gets stuck (20_memory R61). -/
theorem runTurn_answers {turn : Turn} {s : State} (h : routedTurn s.cfg turn = true) :
    ∃ t, runTurn turn s = .next t := by
  cases turn with
  | write addr size data =>
    obtain ⟨off, hoff⟩ := Option.isSome_iff_exists.mp h
    rw [runTurn_write s hoff]
    exact busWrite_answers _ s
  | read addr size =>
    obtain ⟨off, hoff⟩ := Option.isSome_iff_exists.mp h
    exact ⟨_, runTurn_read s hoff size⟩
  | engine => exact engineTurn_answers s
  | reset => exact complete_answers _
  | powerUp => exact complete_answers _

/-! ## Steps -/

theorem step_cons {s : State} {turn : Turn} {rest : List Turn} (hc : configOk s.cfg = true)
    (ha : s.agenda = turn :: rest) : step s = runTurn turn { s with agenda := rest } := by
  simp only [step, hc, if_true, ha]

theorem step_nil {s : State} (hc : configOk s.cfg = true) (ha : s.agenda = []) :
    step s = runTurn .engine s := by
  simp only [step, hc, if_true, ha]
  rfl

theorem step_refused {s : State} (hc : ¬ configOk s.cfg = true) : step s = .refused .badConfig := if_neg hc

theorem safeStep_of_routed {s : State} (hc : configOk s.cfg = true)
    (hr : ∀ t ∈ s.agenda.head?, routedTurn s.cfg t = true) : safeStep s := by
  unfold safeStep
  cases ha : s.agenda with
  | nil =>
    rw [step_nil hc ha]
    exact engineTurn_answers s
  | cons turn rest =>
    have hturn : routedTurn s.cfg turn = true := hr turn (by simp [ha])
    rw [step_cons hc ha]
    exact runTurn_answers hturn

/-! ## The parameters -/

theorem mem_powersFrom_iff (p : BitVec 9) (n e : Nat) (x : Byte) :
    x ∈ powersFrom p n (alphaPow p e) ↔ ∃ i < n, alphaPow p (e + i) = x := by
  rw [List.mem_iff_getElem]
  constructor
  · rintro ⟨i, hi, rfl⟩
    have hi : i < n := by simpa using hi
    exact ⟨i, hi, (powersFrom_getElem p n e i hi).symm⟩
  · rintro ⟨i, hi, rfl⟩
    exact ⟨i, by simpa using hi, powersFrom_getElem p n e i hi⟩

/-- The test of `isPrimitive` over a list of powers says that x has order exactly 255 (40_gf_arith R100). -/
theorem isPrimitive_iff (p : BitVec 9) :
    isPrimitive p = true ↔
      p.msb = true ∧ alphaPow p 255 = 1 ∧ ∀ e, 0 < e → e < 255 → alphaPow p e ≠ 1 := by
  have hall : (powersFrom p 254 (xtime p 1)).all (· != 1) = true ↔
      ∀ e, 0 < e → e < 255 → alphaPow p e ≠ 1 := by
    have hmem := mem_powersFrom_iff p 254 1
    rw [show alphaPow p 1 = xtime p 1 from rfl] at hmem
    simp only [List.all_eq_true, bne_iff_ne]
    constructor
    · intro h e hpos hlt
      exact h _ ((hmem _).mpr ⟨e - 1, by omega, by rw [Nat.add_sub_cancel' hpos]⟩)
    · intro h x hx
      obtain ⟨i, hi, rfl⟩ := (hmem x).mp hx
      exact h (1 + i) (by omega) (by omega)
  rw [isPrimitive, Bool.and_eq_true, Bool.and_eq_true, hall, beq_iff_eq, and_assoc]
  exact and_congr_right fun _ => and_comm

/-! ## The statements -/

/-- Settles O8: for legal parameters a step is a turn, and a routed turn answers; the conditions written out are those
that `configOk` tests. -/
theorem legalParametersStepSafely : Obligations.LegalParametersStepSafely := by
  intro s legal
  have hlegal : configOk s.cfg = true ↔ legal := by rw [configOk_iff, isPrimitive_iff]
  exact ⟨fun h => safeStep_of_routed (hlegal.mpr h), fun h => step_refused (mt hlegal.mp h)⟩

/-- Settles O6: `step` takes the turn off the agenda, and the platform routes an address of the window to its offset. -/
theorem stepRunsDecodedInstruction : Obligations.StepRunsDecodedInstruction := by
  intro s hc
  obtain ⟨-, -, hbase, -⟩ := (configOk_iff s.cfg).mp hc
  refine ⟨fun a rest ha => ?_, fun off size rest ha => ?_, fun turn rest ha => step_cons hc ha, step_nil hc⟩
  · have hw : step s = busWrite a { s with agenda := rest } :=
      (step_cons hc ha).trans
        (runTurn_write { s with agenda := rest } (routedOffset_base s.cfg hbase a.off) a.size a.data)
    exact ⟨hw, fun i hi => hw.trans (busWrite_of_decode hi)⟩
  · exact (step_cons hc ha).trans
      (runTurn_read { s with agenda := rest } (routedOffset_base s.cfg hbase off) size)

end Sys2Proof.Machine
end

section
/-! PROOFS. The invariant of the machine's states: it holds at reset (O59) and every step keeps it (O60). A proof that an
update keeps it has the form `{ h with … }`: the fields written out are those that the update touches. -/

namespace Sys2Proof.Machine

/-! ## Reset -/

/-- Settles O59, field by field: a flag that is clear asks for nothing. -/
theorem resetMeetsInvariant : Obligations.ResetMeetsInvariant where
  paramsLegal := (configOk_iff _).mpr ⟨by decide, by decide, by decide, isPrimitive_default⟩
  bufferCanonical := State.reset_cw_wf
  busyIffJob := rfl
  irqFollows := rfl
  jobPadLegal := nofun
  messageFits := by decide
  parityComplete := nofun
  blockEncodeClosed := nofun
  maxFits := by decide
  errorRecord := by decide
  correctionsCounted := ⟨by decide, fun n _ => Vector.getElem_replicate n.isLt⟩
  correctionsAscend := fun _ n _ hn => absurd hn (Nat.not_lt_zero n.val)
  failedDecode := nofun
  syndromesZero := nofun
  packageFits := by decide
  openHasNoResult := nofun
  validatorAbsent := nofun

/-- The reset input and SOFT_RESET keep the parameters and CW; 64 fits every legal CHK_CAP (00_scope R8). -/
theorem State.Inv.resetRegisters {s : State} (h : s.Inv) : s.resetRegisters.Inv :=
  { resetMeetsInvariant with
    paramsLegal := h.paramsLegal
    bufferCanonical := h.bufferCanonical
    maxFits := ((configOk_iff s.cfg).mp h.paramsLegal).1
    validatorAbsent := fun _ => ⟨(by decide : ieChk 0 = false), rfl, rfl, rfl⟩ }

theorem State.Inv.powerUp {s : State} (h : s.Inv) : (powerUp s).Inv :=
  { h.resetRegisters with bufferCanonical := State.reset_cw_wf }

/-! ## What the invariant does not read -/

theorem State.Inv.settleIrq {s : State} (h : s.Inv) : s.settleIrq.Inv := { h with irqFollows := rfl }

theorem State.Inv.withAgenda {s : State} (h : s.Inv) (rest : List Turn) : { s with agenda := rest }.Inv := { h with }

theorem State.Inv.busRead {s : State} (h : s.Inv) (off : Offset) (size : Size) : (busRead off size s).Inv := by
  obtain ⟨rdata, draws, heq⟩ := busRead_frame off size s
  rw [heq]
  exact { h with }

/-! ## Errors (60_exceptions R241) -/

/-- A rejected write: the first error is recorded with its code, a later one is not. -/
theorem State.Inv.rejected {s : State} (h : s.Inv) {code : ErrCode} (hcode : code ≠ .none) (info : Word) :
    (s.rejected code info).Inv := by
  unfold State.rejected
  cases herr : s.status.err with
  | true => rw [State.capture_of_set herr]; exact h.settleIrq
  | false =>
    rw [State.capture_of_clear herr]
    exact { h with irqFollows := rfl, errorRecord := ⟨nofun, iff_of_false nofun hcode⟩ }

/-! ## CLR_STATUS (44_control R212): from one mask bit to the next irq is not recomputed, so the premise settles it -/

theorem clearDone_inv {s : State} (h : s.settleIrq.Inv) : s.clearDone.settleIrq.Inv := { h with irqFollows := rfl }

theorem clearError_inv {s : State} (h : s.settleIrq.Inv) : s.clearError.settleIrq.Inv :=
  { h with irqFollows := rfl, errorRecord := ⟨fun _ => rfl, iff_of_true rfl rfl⟩ }

theorem clearCheck_inv {s : State} (h : s.settleIrq.Inv) : s.clearCheck.settleIrq.Inv := by
  unfold State.clearCheck
  split
  · next hk =>
    exact { h with
      irqFollows := rfl
      openHasNoResult := fun _ => ⟨rfl, rfl⟩
      validatorAbsent := fun ha => Bool.noConfusion (hk.symm.trans ha) }
  · exact h

theorem State.Inv.clearStatus {s : State} (h : s.Inv) (mask : BitVec 3) : (s.clearStatus mask).settleIrq.Inv := by
  have keep {b : Bool} {u v : State} (hu : u.settleIrq.Inv) (hv : v.settleIrq.Inv) :
      (if b then u else v).settleIrq.Inv := by
    split
    · exact hu
    · exact hv
  have h0 := keep (b := mask.getLsbD 0) (clearDone_inv h.settleIrq) h.settleIrq
  have h1 := keep (b := mask.getLsbD 1) (clearError_inv h0) h0
  exact keep (b := mask.getLsbD 2) (clearCheck_inv h1) h1

/-! ## The encoder and the jobs (41_encoder, 42_syndrome_decoder) -/

/-- An open streaming encode has room for one more byte (41_encoder R145). -/
theorem State.Inv.encData {s : State} (h : s.Inv) (parity : Vector Byte 32) (hopen : s.status.encActive = true)
    (hroom : s.encCount.toNat ≠ messageLength s.encPad) :
    { s with parity := parity, encCount := s.encCount + 1 }.Inv := by
  have hfits := h.messageFits
  rw [messageLength_eq] at hroom
  have hcount : (s.encCount + 1).toNat = s.encCount.toNat + 1 := by
    rw [BitVec.toNat_add]
    exact Nat.mod_eq_of_lt (by simp; omega)
  refine { h with messageFits := ?_, parityComplete := fun hp => ?_ }
  · show s.encPad.toNat + (s.encCount + 1).toNat ≤ 223
    omega
  · exact Bool.noConfusion ((h.parityComplete hp).2.symm.trans hopen)

/-- A job with a legal pad starts on an idle block; a block encode finds the streaming encode closed. -/
theorem State.Inv.startJob {s : State} (h : s.Inv) {job : Job} (hpad : padInRange job.pad = true)
    (hclosed : ∀ pad, job = .encBlock pad → s.status.encActive = false ∧ s.status.pvalid = false) :
    (s.startJob job).settleIrq.Inv :=
  { h with
    busyIffJob := rfl
    irqFollows := rfl
    jobPadLegal := fun _ hj => Option.some.inj hj ▸ hpad
    blockEncodeClosed := fun pad hj => hclosed pad (Option.some.inj hj) }

theorem State.Inv.endJob {s : State} (h : s.Inv) : s.endJob.settleIrq.Inv :=
  { h with busyIffJob := rfl, irqFollows := rfl, jobPadLegal := nofun, blockEncodeClosed := nofun }

/-- An idle block has no job. -/
theorem State.Inv.no_job {s : State} (h : s.Inv) (hr : s.ready) : s.job = none := by
  rw [← Option.not_isSome_iff_eq_none, ← h.busyIffJob, hr]
  decide

/-- The indices of the parity cells are 223 to 254. -/
theorem parityCells_fst_lt (parity : Vector Byte 32) : ∀ kv ∈ parityCells parity, kv.1 < Config.nn := by
  intro kv hkv
  have := List.mem_range'_1.mp (List.of_mem_zip hkv).1
  show kv.1 < 255
  omega

theorem State.Inv.completeEncBlock {s : State} (h : s.Inv) {pad : Byte} (hjob : s.job = some (.encBlock pad)) :
    (completeEncBlock pad s).settleIrq.Inv := by
  have hpad : pad.toNat ≤ 223 := (padInRange_iff pad).mp (h.jobPadLegal _ hjob)
  have hsum : pad.toNat + (BitVec.ofNat 8 (messageLength pad)).toNat = 223 := by
    rw [messageLength_eq, BitVec.toNat_ofNat]
    omega
  exact { h with
    bufferCanonical := Memory.writeAll_wf h.bufferCanonical (parityCells_fst_lt _)
    busyIffJob := rfl
    irqFollows := rfl
    jobPadLegal := nofun
    messageFits := hsum.le
    parityComplete := fun _ => ⟨hsum, (h.blockEncodeClosed pad hjob).1⟩
    blockEncodeClosed := nofun }

/-- SYN and SYN_ZERO are recorded together. -/
theorem State.Inv.recordSyndromes {s : State} (h : s.Inv) (syn : Vector Byte 32) :
    { s with syn := syn, status := { s.status with synZero := allZero syn } }.Inv :=
  { h with syndromesZero := (allZero_iff syn).mp }

/-- The n-th of ascending CW indices, 0 past the last one, is below 256, so that ERRLOC holds it. -/
theorem keys_getD_lt {e : List (Nat × Byte)} (hlt : ∀ kv ∈ e, kv.1 < 255) (n : Nat) : (e.getD n (0, 0)).1 < 256 := by
  rw [List.getD_eq_getElem?_getD]
  cases hn : e[n]? with
  | none => decide
  | some kv => exact (hlt kv (List.mem_of_getElem? hn)).trans (by decide)

/-- The corrections of a found codeword: at most 16 of them, at ascending indices of CW. -/
theorem State.Inv.recordCorrections {s : State} (h : s.Inv) {e : List (Nat × Byte)} (hlen : e.length ≤ 16)
    (hasc : (e.map Prod.fst).Pairwise (· < ·)) (hlt : ∀ kv ∈ e, kv.1 < 255) :
    { s with
      cw := s.cw.writeAll e, decNerr := BitVec.ofNat 5 e.length,
      errLoc := tabulate 16 (fun n => BitVec.ofNat 8 (e.getD n (0, 0)).1),
      status := { s.status with decFail := false } }.Inv := by
  have hnerr : (BitVec.ofNat 5 e.length).toNat = e.length := by
    rw [BitVec.toNat_ofNat]
    omega
  have hloc (n : Fin 16) : (tabulate 16 fun n => BitVec.ofNat 8 (e.getD n (0, 0)).1)[n] =
      BitVec.ofNat 8 (e.getD n (0, 0)).1 := getElem_tabulate 16 _ n n.isLt
  refine { h with
    bufferCanonical := Memory.writeAll_wf h.bufferCanonical hlt
    correctionsCounted := ⟨hnerr.trans_le hlen, fun n hn => ?_⟩
    correctionsAscend := fun m n hmn hn => ?_
    failedDecode := nofun }
  · rw [hloc, List.getD_eq_default _ _ (hnerr ▸ hn)]
    rfl
  · replace hn : n.val < e.length := hnerr ▸ hn
    have hm : m.val < e.length := Nat.lt_trans hmn hn
    have hkeys : (e.getD m (0, 0)).1 < (e.getD n (0, 0)).1 := by
      rw [List.getD_eq_getElem e _ hm, List.getD_eq_getElem e _ hn]
      exact List.pairwise_iff_getElem.mp (List.pairwise_map.mp hasc) m n hm hn hmn
    rw [hloc, hloc, BitVec.lt_def, BitVec.toNat_ofNat, BitVec.toNat_ofNat,
      Nat.mod_eq_of_lt (keys_getD_lt hlt m), Nat.mod_eq_of_lt (keys_getD_lt hlt n)]
    exact hkeys

/-- A failed decode leaves no corrections. -/
theorem State.Inv.recordFailure {s : State} (h : s.Inv) :
    { s with decNerr := 0, errLoc := Vector.replicate 16 0, status := { s.status with decFail := true } }.Inv :=
  { h with
    correctionsCounted := resetMeetsInvariant.correctionsCounted
    correctionsAscend := resetMeetsInvariant.correctionsAscend
    failedDecode := fun _ => rfl }

theorem State.Inv.completeSynCalc {s : State} (h : s.Inv) (pad : Byte) : (completeSynCalc pad s).settleIrq.Inv := by
  unfold Machine.completeSynCalc
  exact (h.recordSyndromes _).endJob

theorem State.Inv.completeDecCorrect {s : State} (h : s.Inv) {pad : Byte} (hpad : padInRange pad = true) :
    (completeDecCorrect pad s).settleIrq.Inv := by
  have hsyn := h.recordSyndromes (syndromes s.rom (s.receivedWord pad))
  unfold Machine.completeDecCorrect
  dsimp only
  cases hfound : decodeWord s.rom pad.toNat (s.receivedWord pad) with
  | none => exact hsyn.recordFailure.endJob
  | some c =>
    obtain ⟨hasc, hrange⟩ := corrections_keys pad.toNat (s.receivedWord pad) c
    have hlen : (corrections pad.toNat (s.receivedWord pad) c).length ≤ 16 := by
      rw [corrections_length]
      exact (decodeWord_some hfound).2
    refine (hsyn.recordCorrections hlen hasc fun kv hkv => ?_).endJob
    have hlt := (hrange kv hkv).2
    rw [padInRange_iff] at hpad
    rw [State.receivedWord_length] at hlt
    omega

theorem State.Inv.engineTurn {s t : State} (h : s.Inv) (ht : engineTurn s = .next t) : t.Inv := by
  rcases engineTurn_cases ht with ⟨_, rfl⟩ | ⟨⟨job, hjob⟩, rfl⟩
  · exact h
  · unfold engineStep
    rw [hjob]
    cases job with
    | encBlock pad => exact h.completeEncBlock hjob
    | synCalc pad => exact h.completeSynCalc pad
    | decCorrect pad => exact h.completeDecCorrect (h.jobPadLegal _ hjob)

/-! ## The validator (43_checksum R193) -/

theorem feedPackage_of_parseByte {s t : State} {d : Byte} (h : s.parseByte s.chkCount.toNat d = t) :
    s.feedPackage d = { t with chkCount := s.chkCount + 1 } := by
  rw [← h]
  rfl

/-- CHK_COUNT advances without overflow within a package. -/
theorem toNat_chkCount_succ {s : State} (h : s.chkCount.toNat ≤ 65540) :
    (s.chkCount + 1).toNat = s.chkCount.toNat + 1 := by
  rw [BitVec.toNat_add]
  exact Nat.mod_eq_of_lt (by simp; omega)

/-- A byte before the last one leaves the package open. -/
theorem State.Inv.packageGoesOn {s : State} (h : s.Inv) (id len trailer : BitVec 16) (sum : Byte)
    (hn : s.chkCount.toNat ≤ 4 + len.toNat) :
    { s with chkId := id, chkLen := len, chkTrailer := trailer, chkSum := sum,
             chkCount := s.chkCount + 1 }.settleIrq.Inv := by
  have hcount := toNat_chkCount_succ (s := s) (by omega)
  have hlen := len.isLt
  refine { h with irqFollows := rfl, packageFits := ⟨?_, fun _ _ => ?_⟩ }
  · show (s.chkCount + 1).toNat ≤ 65541
    omega
  · show (s.chkCount + 1).toNat ≤ 5 + len.toNat
    omega

/-- The size guard or the verdict closes the package. -/
theorem State.Inv.packageCloses {s : State} (h : s.Inv) (id len trailer : BitVec 16) (sum : Byte) (res : ChkRes)
    (echo : Bool) (hn : s.chkCount.toNat ≤ 65540) (hk : s.cfg.hasChk = true) :
    { s with chkId := id, chkLen := len, chkTrailer := trailer, chkSum := sum, chkCount := s.chkCount + 1,
             status := { s.status with
               chkActive := false, chkRes := res, chkEchoMatch := echo } }.settleIrq.Inv :=
  { h with
    irqFollows := rfl
    packageFits := ⟨(toNat_chkCount_succ hn).trans_le (Nat.succ_le_succ hn), nofun⟩
    openHasNoResult := nofun
    validatorAbsent := fun ha => Bool.noConfusion (hk.symm.trans ha) }

/-- A package byte, by its position: the four header bytes, the payload, the checksum and the echo byte. -/
theorem State.Inv.feedPackage {s : State} (h : s.Inv) (d : Byte) (hk : s.cfg.hasChk = true)
    (hopen : s.status.chkActive = true) : (s.feedPackage d).settleIrq.Inv := by
  obtain ⟨-, hfits⟩ := h.packageFits
  have hlen := s.chkLen.isLt
  obtain hn | hn | hn | hn | hn | hn | hn : s.chkCount.toNat = 0 ∨ s.chkCount.toNat = 1 ∨ s.chkCount.toNat = 2 ∨
      s.chkCount.toNat = 3 ∨ (4 ≤ s.chkCount.toNat ∧ s.chkCount.toNat < 4 + s.chkLen.toNat) ∨
      s.chkCount.toNat = 4 + s.chkLen.toNat ∨ s.chkCount.toNat = 5 + s.chkLen.toNat := by
    have := hfits hopen
    omega
  · rw [feedPackage_of_parseByte (hn ▸ s.parseByte_zero d)]
    exact h.packageGoesOn _ _ _ _ (by omega)
  · rw [feedPackage_of_parseByte (hn ▸ s.parseByte_one d)]
    exact h.packageGoesOn _ _ _ _ (by omega)
  · rw [feedPackage_of_parseByte (hn ▸ s.parseByte_two d)]
    exact h.packageGoesOn _ _ _ _ (by omega)
  · rw [feedPackage_of_parseByte (hn ▸ s.parseByte_three d)]
    unfold State.sizeGuard
    split
    · exact h.packageCloses _ _ _ _ _ _ (by omega) hk
    · exact h.packageGoesOn _ _ _ _ (by omega)
  · rw [feedPackage_of_parseByte (s.parseByte_payload d hn.1 hn.2)]
    exact h.packageGoesOn _ _ _ _ hn.2.le
  · rw [feedPackage_of_parseByte (s.parseByte_checksum d hn)]
    exact h.packageGoesOn _ _ _ _ hn.le
  · rw [feedPackage_of_parseByte (s.parseByte_echo d hn)]
    exact h.packageCloses _ _ _ _ _ _ (by omega) hk

/-- Without the validator CTRL stores IE_CHK as 0 (10_state R28). -/
theorem ieChk_storedCtrl_of_absent (data : Word) : ieChk (storedCtrl false data) = false := by
  simp [ieChk, storedCtrl]

/-! ## Instructions, turns and steps -/

/-- The effect of an accepted instruction keeps the invariant. -/
theorem State.Inv.effect {s : State} (h : s.Inv) {i : Instr} (ha : accepts i s) : (effect i s).settleIrq.Inv := by
  obtain ⟨hready, hneeds, hguard⟩ := ha
  cases i with
  | nop | gfAdd | gfMul | gfDiv | gfInv | gfExp | gfLog | gfMac | gfHorner | wrGfA _ | wrGfB _ | wrGfR _ =>
    exact { h with irqFollows := rfl }
  | softReset => exact h.resetRegisters.settleIrq
  | clrStatus mask => exact h.clearStatus mask
  | encInit pad =>
    have hjob := h.no_job (hready nofun)
    exact { h with
      irqFollows := rfl
      messageFits := (padInRange_iff pad).mp hguard
      parityComplete := nofun
      blockEncodeClosed := fun _ hj => nomatch hjob.symm.trans hj }
  | encFinish =>
    have hjob := h.no_job (hready nofun)
    have hcomplete : s.encPad.toNat + s.encCount.toNat = 223 := by
      have hfits := h.messageFits
      have hcount := hguard.2
      rw [messageLength_eq] at hcount
      omega
    exact { h with
      irqFollows := rfl
      parityComplete := fun _ => ⟨hcomplete, rfl⟩
      blockEncodeClosed := fun _ hj => nomatch hjob.symm.trans hj }
  | encBlock pad =>
    have hclosed : { s with status := { s.status with encActive := false, pvalid := false } }.Inv :=
      { h with parityComplete := nofun, blockEncodeClosed := fun _ _ => ⟨rfl, rfl⟩ }
    exact hclosed.startJob hguard fun _ _ => ⟨rfl, rfl⟩
  | synCalc pad =>
    have hopened : { s with status := { s.status with synZero := false } }.Inv := { h with syndromesZero := nofun }
    exact hopened.startJob hguard nofun
  | decCorrect pad =>
    have hopened : { s with status := { s.status with synZero := false, decFail := false } }.Inv :=
      { h with syndromesZero := nofun, failedDecode := nofun }
    exact hopened.startJob hguard nofun
  | chkInit =>
    exact { h with
      irqFollows := rfl
      packageFits := ⟨Nat.zero_le _, fun _ h4 => absurd h4 (by decide : ¬ 4 ≤ (0 : BitVec 17).toNat)⟩
      openHasNoResult := fun _ => ⟨rfl, rfl⟩
      validatorAbsent := fun ha => Bool.noConfusion ((hneeds rfl).symm.trans ha) }
  | chkSetmax size => exact { h with irqFollows := rfl, maxFits := of_decide_eq_true hguard }
  | wrCtrl data =>
    refine { h with irqFollows := rfl, validatorAbsent := fun hk => ⟨?_, (h.validatorAbsent hk).2⟩ }
    exact (congrArg (fun b => ieChk (storedCtrl b data)) hk).trans (ieChk_storedCtrl_of_absent data)
  | encData data => exact (h.encData _ hguard.1 hguard.2).settleIrq
  | chkData data => exact h.feedPackage _ (hneeds rfl) hguard
  | wrCw k data =>
    have hk : k.toNat < 255 := by
      have := k.isLt
      have : k.toNat ≠ 255 := fun he => hguard (BitVec.eq_of_toNat_eq he)
      omega
    exact { h with irqFollows := rfl, bufferCanonical := Memory.write_wf h.bufferCanonical hk _ }

theorem State.Inv.exec {s t : State} (h : s.Inv) {i : Instr} (ht : exec i s = .next t) : t.Inv := by
  rcases exec_cases ht with ⟨code, info, hcode, rfl⟩ | ⟨ha, rfl⟩
  · exact h.rejected hcode info
  · exact h.effect ha

theorem State.Inv.busWrite {s t : State} (h : s.Inv) {a : BusWrite} (ht : busWrite a s = .next t) : t.Inv := by
  rcases busWrite_cases ht with ⟨code, info, hcode, rfl⟩ | ⟨i, -, hi⟩
  · exact h.rejected hcode info
  · exact h.exec hi

theorem State.Inv.runTurn {s t : State} (h : s.Inv) {turn : Turn} (ht : runTurn turn s = .next t) : t.Inv := by
  rcases runTurn_cases ht with ⟨a, ha⟩ | ⟨off, size, rfl⟩ | he | rfl | rfl
  · exact h.busWrite ha
  · exact h.busRead off size
  · exact h.engineTurn he
  · exact h.resetRegisters.settleIrq
  · exact h.powerUp.settleIrq

/-- Settles O60, by the cases of a step. -/
theorem stepKeepsInvariant : Obligations.StepKeepsInvariant := by
  intro s t h ht
  obtain ⟨-, ⟨-, he⟩ | ⟨turn, rest, -, hturn⟩⟩ := step_cases ht
  · exact h.engineTurn he
  · exact (h.withAgenda rest).runTurn hturn

end Sys2Proof.Machine
end

section
/-! PROOFS. The constant registers (O19), and the block without its validator (O51). -/

namespace Sys2Proof.Machine

/-! ## Accesses by what the register map has at their offset -/

/-- A read of a register that no job writes is exact (60_exceptions R252). -/
theorem busRead_of_mapped {s : State} {off : Offset} {r : Reg} (hr : regAt s.cfg.hasChk off = some r)
    (hj : inJobset r = false) : busRead off .four s = { s with rdata := some (regValue s r) } := by
  simp [busRead, readDraws, readWord, hr, hj]

/-- A read of an unmapped offset returns 0, at every size (20_memory R62). -/
theorem busRead_of_unmapped {s : State} {off : Offset} (hr : regAt s.cfg.hasChk off = none) (size : Size) :
    busRead off size s = { s with rdata := some 0 } := by
  cases size <;> simp [busRead, readDraws, readWord, hr]

/-- A write to an unmapped offset raises ACCESS, at every size (20_memory R62). -/
theorem busWrite_of_unmapped {s : State} {off : Offset} (hr : regAt s.cfg.hasChk off = none) (size : Size)
    (data : Word) :
    busWrite ⟨off, size, data⟩ s = .next (s.rejected .access (accessInfo ⟨off, size, data⟩)) := by
  cases size <;> simp [busWrite, decodeWrite, hr, raiseError_eq]

/-- A write to a read-only register raises ACCESS (20_memory R64). -/
theorem busWrite_of_readOnly {s : State} {off : Offset} {r : Reg} (hr : regAt s.cfg.hasChk off = some r)
    (ho : r.access = .ro) (data : Word) :
    busWrite ⟨off, .four, data⟩ s = .next (s.rejected .access (accessInfo ⟨off, .four, data⟩)) := by
  have hd : decodeAt s.cfg.hasChk r data = .error .access := by
    cases r with
    | ctrl | cmd | encData | gfA | gfB | gfR | chkData | cw _ => cases ho
    | _ => rfl
  simp only [busWrite, decodeWrite, hr, hd, raiseError_eq]

/-! ## The constant registers (10_state R24 to R27) -/

theorem regAt_id (hasChk : Bool) : regAt hasChk 0x000 = some .id := by cases hasChk <;> decide
theorem regAt_param0 (hasChk : Bool) : regAt hasChk 0x004 = some .param0 := by cases hasChk <;> decide
theorem regAt_param1 (hasChk : Bool) : regAt hasChk 0x008 = some .param1 := by cases hasChk <;> decide
theorem regAt_chkCapr (hasChk : Bool) : regAt hasChk 0x00C = some .chkCapr := by cases hasChk <;> decide

theorem toNat_param1Word (cfg : Config) :
    (param1Word cfg).toNat =
      (if cfg.hasChk then 2 ^ 25 else 0) + cfg.fieldPoly.toNat * 2 ^ 16 + 0xFF * 2 ^ 8 + 0x08 := by
  have hpoly := cfg.fieldPoly.isLt
  simp only [param1Word, BitVec.toNat_append]
  rw [← Nat.shiftLeft_add_eq_or_of_lt (by decide), ← Nat.shiftLeft_add_eq_or_of_lt (by decide),
    ← Nat.shiftLeft_add_eq_or_of_lt hpoly, ← Nat.shiftLeft_add_eq_or_of_lt (BitVec.isLt _)]
  simp only [Nat.shiftLeft_eq]
  cases cfg.hasChk <;> simp <;> omega

theorem toNat_chkCaprWord {cfg : Config} (h : cfg.chkCap ≤ 65535) :
    (chkCaprWord cfg).toNat = if cfg.hasChk then cfg.chkCap else 0 := by
  unfold chkCaprWord
  split
  · rw [BitVec.toNat_append, BitVec.toNat_ofNat, BitVec.toNat_ofNat]
    simp
    omega
  · rfl

/-- Settles O19: the four registers are mapped, read-only and outside JOBSET. -/
theorem constantRegisters : Obligations.ConstantRegisters := by
  intro s param1 chkCapr returns
  refine ⟨⟨busRead_of_mapped (regAt_id _) rfl, rfl⟩, ⟨busRead_of_mapped (regAt_param0 _) rfl, rfl⟩,
    ⟨busRead_of_mapped (regAt_param1 _) rfl, toNat_param1Word s.cfg⟩,
    fun hcap => ⟨busRead_of_mapped (regAt_chkCapr _) rfl, toNat_chkCaprWord hcap⟩, fun off data hoff => ?_⟩
  have hread : off = 0x000 ∨ off = 0x004 ∨ off = 0x008 ∨ off = 0x00C := by
    simpa [← BitVec.toNat_inj] using hoff
  rcases hread with rfl | rfl | rfl | rfl
  · exact busWrite_of_readOnly (regAt_id _) rfl data
  · exact busWrite_of_readOnly (regAt_param0 _) rfl data
  · exact busWrite_of_readOnly (regAt_param1 _) rfl data
  · exact busWrite_of_readOnly (regAt_chkCapr _) rfl data

/-! ## Without the validator (10_state R53) -/

theorem regAt_of_validatorAbsent :
    ∀ off : Offset, 0x040 ≤ off.toNat → off.toNat ≤ 0x058 → regAt false off = none := by
  decide +kernel

theorem decodeCommand_of_validatorAbsent {w : Word} (h : opcOf w = 0x40 ∨ opcOf w = 0x41) :
    decodeCommand false w = .error .badOpcode := by
  rcases h with h | h
  · simp [decodeCommand, h]
  · simp [decodeCommand, h]

/-- HAS_CHK is bit 25 of PARAM1. -/
theorem getLsbD_param1Word_of_validatorAbsent {cfg : Config} (h : cfg.hasChk = false) :
    (param1Word cfg).getLsbD 25 = false := by
  have hpoly := cfg.fieldPoly.isLt
  have hlt : (param1Word cfg).toNat < 2 ^ 25 := by
    rw [toNat_param1Word, h]
    simp only [Bool.false_eq_true, if_false]
    omega
  exact Nat.testBit_lt_two_pow hlt

theorem getLsbD_statusFlags_of_validatorAbsent (st : Status) {i : Nat} (h : 7 ≤ i) :
    (statusFlags false st).getLsbD i = false := by
  show BitVec.getLsbD (w := 4 + 1 + 1 + 1 + 1 + 1 + 1 + 1) (_ ++ _) i = false
  simp only [BitVec.getLsbD_append]
  iterate 7 rw [if_neg (by omega)]
  exact BitVec.getLsbD_zero

/-- STATUS[10:7] read 0. -/
theorem extract_statusWord_of_validatorAbsent (st : Status) (irq : Bool) :
    (statusWord false st irq).extractLsb' 7 4 = 0 := by
  ext i hi
  rw [BitVec.getElem_extractLsb']
  show BitVec.getLsbD (w := 8 + 8 + 4 + 1 + 11) (_ ++ statusFlags false st) (7 + i) = _
  rw [BitVec.getLsbD_append, if_pos (by omega), getLsbD_statusFlags_of_validatorAbsent st (by omega)]
  simp

/-- Settles O51: the register map and the decoder without the validator, then the three masked words. -/
theorem validatorAbsent : Obligations.ValidatorAbsent := by
  intro s hk
  refine ⟨fun off hlow hhigh => ?_, fun w hopc hr => ?_, ?_, ?_, ?_, fun data t hr ht => ?_⟩
  · have hoff : regAt s.cfg.hasChk off = none := hk ▸ regAt_of_validatorAbsent off hlow hhigh
    exact ⟨fun size => by rw [busRead_of_unmapped hoff], busWrite_of_unmapped hoff⟩
  · have hd : decodeWrite s.cfg.hasChk (commandWrite w) = .error .badOpcode := by
      rw [hk, decodeWrite_command, decodeCommand_of_validatorAbsent hopc]
    simp only [busWrite, hd, unlessBusy_of_ready hr, raiseError_eq]
    rfl
  · simp [regValue, chkCaprWord, hk]
  · exact getLsbD_param1Word_of_validatorAbsent hk
  · rw [regValue, hk, extract_statusWord_of_validatorAbsent]
  · have ht : complete { s with ctrl := storedCtrl s.cfg.hasChk data } = .next t :=
      (unlessBusy_of_ready hr _ _).symm.trans ht
    cases ht
    exact (congrArg (fun b => ieChk (storedCtrl b data)) hk).trans (ieChk_storedCtrl_of_absent data)

end Sys2Proof.Machine
end

section
/-! PROOFS. From a bus write that decodes back to its instruction: the write is the instruction's own encoding. -/

namespace Sys2Proof

/-- The offset of a register (10_state R22). -/
def Reg.offset : Reg → Offset
  | .id => 0x000
  | .param0 => 0x004
  | .param1 => 0x008
  | .chkCapr => 0x00C
  | .ctrl => 0x010
  | .cmd => 0x014
  | .status => 0x018
  | .errInfo => 0x01C
  | .encData => 0x020
  | .encPad => 0x024
  | .encCount => 0x028
  | .gfA => 0x02C
  | .gfB => 0x030
  | .gfR => 0x034
  | .decNerr => 0x038
  | .chkData => 0x040
  | .chkMax => 0x044
  | .chkSum => 0x048
  | .chkId => 0x04C
  | .chkLen => 0x050
  | .chkCount => 0x054
  | .chkTrailer => 0x058
  | .parity j => BitVec.ofNat 11 (0x080 + 4 * j.val)
  | .syn i => BitVec.ofNat 11 (0x100 + 4 * i.val)
  | .errLoc k => BitVec.ofNat 11 (0x180 + 4 * k.val)
  | .cw k => cwOffset k

/-- The register map has each register at its one offset. -/
theorem offset_of_regAt {hasChk : Bool} {off : Offset} {r : Reg} (h : regAt hasChk off = some r) : r.offset = off := by
  have key : ∀ (hasChk : Bool) (off : Offset), ∀ r ∈ regAt hasChk off, r.offset = off := by decide +kernel
  exact key hasChk off r h

/-! A command word that decodes is the word of its instruction (30_encoding R82 to R84). -/

theorem cmdWord_of_fields {w : Word} {opc argA : Byte} {argB : BitVec 16} (ho : (opcOf w).toNat = opc.toNat)
    (ha : argAOf w = argA) (hb : argBOf w = argB) : cmdWord opc argA argB = w := by
  rw [← BitVec.eq_of_toNat_eq ho, ← ha, ← hb, cmdWord_fields]

theorem plainCmd_encode {w : Word} {opc : Byte} {i j : Instr} (h : plainCmd w j = .ok i)
    (hj : encode j = commandWrite (cmdWord opc 0 0)) (ho : (opcOf w).toNat = opc.toNat) :
    encode i = commandWrite w := by
  unfold plainCmd at h
  split at h
  · next hz =>
    cases h
    rw [hj, cmdWord_of_fields ho hz.1 hz.2]
  · cases h

theorem padCmd_encode {w : Word} {opc : Byte} {i : Instr} {j : Byte → Instr} (h : padCmd w j = .ok i)
    (hj : ∀ pad, encode (j pad) = commandWrite (cmdWord opc pad 0)) (ho : (opcOf w).toNat = opc.toNat) :
    encode i = commandWrite w := by
  unfold padCmd at h
  split at h
  · next hz =>
    cases h
    rw [hj, cmdWord_of_fields ho rfl hz]
  · cases h

theorem clrStatusCmd_encode {w : Word} {i : Instr} (h : clrStatusCmd w = .ok i) (ho : (opcOf w).toNat = 0x02) :
    encode i = commandWrite w := by
  unfold clrStatusCmd at h
  split at h
  · next hz =>
    cases h
    have hhigh : (argAOf w).toNat / 8 % 32 = 0 := by
      simpa [Nat.shiftRight_eq_div_pow] using congrArg BitVec.toNat hz.1
    have hmask : argAOf w = ((argAOf w).setWidth 3).setWidth 8 := by
      apply BitVec.eq_of_toNat_eq
      have := (argAOf w).isLt
      simp only [BitVec.toNat_setWidth]
      omega
    exact congrArg commandWrite (cmdWord_of_fields ho hmask hz.2)
  · cases h

theorem chkSetmaxCmd_encode {w : Word} {i : Instr} (h : chkSetmaxCmd w = .ok i) (ho : (opcOf w).toNat = 0x41) :
    encode i = commandWrite w := by
  unfold chkSetmaxCmd at h
  split at h
  · next hz =>
    cases h
    exact congrArg commandWrite (cmdWord_of_fields ho hz rfl)
  · cases h

theorem decodeCommand_encode {hasChk : Bool} {w : Word} {i : Instr} (h : decodeCommand hasChk w = .ok i) :
    encode i = commandWrite w := by
  unfold decodeCommand at h
  split at h
  case h_1 ho | h_2 ho | h_5 ho | h_7 ho | h_8 ho | h_9 ho | h_10 ho | h_11 ho | h_12 ho | h_13 ho | h_14 ho =>
    exact plainCmd_encode h rfl ho
  case h_3 ho => exact clrStatusCmd_encode h ho
  case h_4 ho | h_6 ho | h_15 ho | h_16 ho => exact padCmd_encode h (fun _ => rfl) ho
  case h_17 ho =>
    split at h
    · exact plainCmd_encode h rfl ho
    · cases h
  case h_18 ho =>
    split at h
    · exact chkSetmaxCmd_encode h ho
    · cases h
  case h_19 => cases h

/-- A register write that decodes is the write of its instruction. -/
theorem decodeAt_encode {hasChk : Bool} {r : Reg} {data : Word} {i : Instr} (h : decodeAt hasChk r data = .ok i) :
    encode i = ⟨r.offset, .four, data⟩ := by
  cases r with
  | cmd => exact decodeCommand_encode h
  | ctrl | encData | gfA | gfB | gfR | chkData | cw _ => cases h; rfl
  | _ => cases h

/-- The encoder inverts the decoder: the write that decodes to an instruction is the instruction's own
(30_encoding R81, R87). -/
theorem encode_of_decodeWrite {hasChk : Bool} {a : BusWrite} {i : Instr} (h : decodeWrite hasChk a = .ok i) :
    encode i = a := by
  obtain ⟨off, size, data⟩ := a
  cases size with
  | one => cases h
  | two => cases h
  | four =>
    cases hr : regAt hasChk off with
    | none =>
      simp only [decodeWrite, hr] at h
      cases h
    | some r =>
      simp only [decodeWrite, hr] at h
      rw [decodeAt_encode h, offset_of_regAt hr]

end Sys2Proof
end

section
/-! PROOFS. What no step, or only some step, can change: the parameters and so the ROM (O57), and CHK_MAX (O58). -/

namespace Sys2Proof.Machine

/-! ## The parameters -/

@[simp] theorem State.rejected_cfg (s : State) (code : ErrCode) (info : Word) : (s.rejected code info).cfg = s.cfg := by
  simp [State.rejected]

@[simp] theorem State.rejected_chkMax (s : State) (code : ErrCode) (info : Word) :
    (s.rejected code info).chkMax = s.chkMax := by
  simp [State.rejected]

@[simp] theorem busRead_cfg (off : Offset) (size : Size) (s : State) : (busRead off size s).cfg = s.cfg := by
  obtain ⟨rdata, draws, heq⟩ := busRead_frame off size s
  rw [heq]

@[simp] theorem busRead_chkMax (off : Offset) (size : Size) (s : State) : (busRead off size s).chkMax = s.chkMax := by
  obtain ⟨rdata, draws, heq⟩ := busRead_frame off size s
  rw [heq]

/-- A package byte touches the registers of the validator only, and neither CHK_MAX nor the parameters. -/
theorem State.feedPackage_frame (s : State) (d : Byte) :
    (s.feedPackage d).cfg = s.cfg ∧ (s.feedPackage d).chkMax = s.chkMax := by
  unfold State.feedPackage State.parseByte
  dsimp only
  split_ifs <;> simp [State.addSum]

theorem effect_cfg (i : Instr) (s : State) : (effect i s).cfg = s.cfg := by
  cases i with
  | clrStatus mask => exact congrArg (·.cfg) (s.clearStatus_eq mask)
  | chkData data => exact (s.feedPackage_frame _).1
  | _ => rfl

/-- Only SOFT_RESET and CHK_SETMAX have CHK_MAX among their effects. -/
theorem effect_chkMax {i : Instr} (hreset : i ≠ .softReset) (hset : ∀ size, i ≠ .chkSetmax size) (s : State) :
    (effect i s).chkMax = s.chkMax := by
  cases i with
  | softReset => exact absurd rfl hreset
  | chkSetmax size => exact absurd rfl (hset size)
  | clrStatus mask => exact congrArg (·.chkMax) (s.clearStatus_eq mask)
  | chkData data => exact (s.feedPackage_frame _).2
  | _ => rfl

/-- The engine touches neither the parameters nor CHK_MAX. -/
theorem engineStep_frame (s : State) : (engineStep s).cfg = s.cfg ∧ (engineStep s).chkMax = s.chkMax := by
  unfold engineStep
  split
  · exact ⟨rfl, rfl⟩
  · exact ⟨rfl, rfl⟩
  · exact ⟨rfl, rfl⟩
  · unfold completeDecCorrect State.recordDecode
    dsimp only
    split <;> exact ⟨rfl, rfl⟩

theorem engineTurn_frame {s t : State} (h : engineTurn s = .next t) : t.cfg = s.cfg ∧ t.chkMax = s.chkMax := by
  rcases engineTurn_cases h with ⟨-, rfl⟩ | ⟨-, rfl⟩
  · exact ⟨rfl, rfl⟩
  · exact engineStep_frame s

theorem busWrite_cfg {a : BusWrite} {s t : State} (h : busWrite a s = .next t) : t.cfg = s.cfg := by
  rcases busWrite_cases h with ⟨code, info, -, rfl⟩ | ⟨i, -, hi⟩
  · exact s.rejected_cfg code info
  · rcases exec_cases hi with ⟨code, info, -, rfl⟩ | ⟨-, rfl⟩
    · exact s.rejected_cfg code info
    · exact effect_cfg i s

theorem runTurn_cfg {turn : Turn} {s t : State} (h : runTurn turn s = .next t) : t.cfg = s.cfg := by
  rcases runTurn_cases h with ⟨a, ha⟩ | ⟨off, size, rfl⟩ | he | rfl | rfl
  · exact busWrite_cfg ha
  · exact busRead_cfg off size s
  · exact (engineTurn_frame he).1
  · rfl
  · rfl

theorem step_cfg {s t : State} (h : step s = .next t) : t.cfg = s.cfg := by
  obtain ⟨-, ⟨-, he⟩ | ⟨turn, rest, -, hturn⟩⟩ := step_cases h
  · exact (engineTurn_frame he).1
  · exact (runTurn_cfg hturn : _ = ({ s with agenda := rest } : State).cfg)

/-- Settles O57: the ROM is a function of the parameters. -/
theorem romIsNeverWritten : Obligations.RomIsNeverWritten := fun _ _ h =>
  ⟨step_cfg h, congrArg (fun cfg : Config => romOf cfg.fieldPoly) (step_cfg h)⟩

/-! ## CHK_MAX -/

/-- The platform routes one address to each offset of the window (20_memory R61). -/
theorem addr_of_routedOffset {cfg : Config} {addr : Nat} {off : Offset} (hbase : cfg.rsBase % 0x800 = 0)
    (h : routedOffset cfg addr = some off) : addr = cfg.rsBase + off.toNat := by
  unfold routedOffset at h
  split at h
  · cases h
    rw [BitVec.toNat_ofNat]
    omega
  · cases h

/-- A host write that answers a next state was routed to the block. -/
theorem runTurn_write_next {addr : Nat} {size : Size} {data : Word} {s t : State}
    (h : runTurn (.write addr size data) s = .next t) :
    ∃ off, routedOffset s.cfg addr = some off ∧ busWrite ⟨off, size, data⟩ s = .next t := by
  cases hoff : routedOffset s.cfg addr with
  | none => simp [runTurn, hoff] at h
  | some off => exact ⟨off, rfl, (runTurn_write s hoff size data).symm.trans h⟩

theorem runTurn_read_next {addr : Nat} {size : Size} {s t : State} (h : runTurn (.read addr size) s = .next t) :
    ∃ off, t = busRead off size s := by
  cases hoff : routedOffset s.cfg addr with
  | none => simp [runTurn, hoff] at h
  | some off => exact ⟨off, Host.Outcome.next.inj (h.symm.trans (runTurn_read s hoff size))⟩

/-- The bus writes that can change CHK_MAX, each with the value that it leaves. -/
theorem busWrite_chkMax {a : BusWrite} {s t : State} (h : busWrite a s = .next t) (hne : t.chkMax ≠ s.chkMax) :
    (a = encode .softReset ∧ t.chkMax = 64) ∨ ∃ size, a = encode (.chkSetmax size) ∧ t.chkMax = size := by
  rcases busWrite_cases h with ⟨code, info, -, rfl⟩ | ⟨i, hdecode, hi⟩
  · exact absurd (s.rejected_chkMax code info) hne
  rcases exec_cases hi with ⟨code, info, -, rfl⟩ | ⟨-, rfl⟩
  · exact absurd (s.rejected_chkMax code info) hne
  have ha := encode_of_decodeWrite hdecode
  by_cases hreset : i = .softReset
  · subst hreset
    exact .inl ⟨ha.symm, rfl⟩
  · by_cases hset : ∃ size, i = .chkSetmax size
    · obtain ⟨size, rfl⟩ := hset
      exact .inr ⟨size, ha.symm, rfl⟩
    · exact absurd (effect_chkMax hreset (fun size hsize => hset ⟨size, hsize⟩) s) hne

/-- Settles O58, by the agent that moves. -/
theorem onlySetmaxAndResetChangeChkMax : Obligations.OnlySetmaxAndResetChangeChkMax := by
  intro s t h hne
  obtain ⟨hc, ⟨-, he⟩ | ⟨turn, rest, ha, hturn⟩⟩ := step_cases h
  · exact absurd (engineTurn_frame he).2 hne
  obtain ⟨-, -, hbase, -⟩ := (configOk_iff s.cfg).mp hc
  refine ⟨turn, rest, ha, ?_⟩
  cases turn with
  | write addr size data =>
    obtain ⟨off, hoff, hwrite⟩ := runTurn_write_next hturn
    obtain rfl := addr_of_routedOffset hbase hoff
    rcases busWrite_chkMax hwrite hne with ⟨ha, hmax⟩ | ⟨new, ha, hmax⟩
    · exact .inl ⟨by simp [State.hostWrite, ← ha], hmax⟩
    · exact .inr ⟨new, by simp [State.hostWrite, ← ha], hmax⟩
  | read addr size =>
    obtain ⟨off, rfl⟩ := runTurn_read_next hturn
    exact absurd (busRead_chkMax off size _) hne
  | engine => exact absurd (engineTurn_frame hturn).2 hne
  | reset => cases hturn; exact .inl ⟨by simp, rfl⟩
  | powerUp => cases hturn; exact .inl ⟨by simp, rfl⟩

end Sys2Proof.Machine
end

section
/-! PROOFS. Bus reads: the register map written out by offset (O17). -/

namespace Sys2Proof.Machine

/-! ## Where the register map is empty (20_memory R62) -/

theorem regAt_of_misaligned {off : Offset} (h : off.toNat % 4 ≠ 0) (hasChk : Bool) : regAt hasChk off = none :=
  if_pos h

/-- The gaps of the register map (10_state R22), with and without the validator. -/
theorem regAt_of_gap (hasChk : Bool) : ∀ off : Offset,
    (0x03C ≤ off.toNat ∧ off.toNat < 0x040) ∨ (0x05C ≤ off.toNat ∧ off.toNat < 0x080) ∨
      (0x1C0 ≤ off.toNat ∧ off.toNat < 0x400) ∨ 0x7FC ≤ off.toNat → regAt hasChk off = none := by
  revert hasChk
  decide +kernel

/-! ## Reads by what is at their offset -/

/-- A read of a wrong size returns 0 (20_memory R62). -/
theorem busRead_of_badSize {size : Size} (h : size ≠ .four) (off : Offset) (s : State) :
    busRead off size s = { s with rdata := some 0 } := by
  cases size with
  | four => exact absurd rfl h
  | _ => rfl

/-- A mapped register is read exactly, unless the block is BUSY and a job may write it (60_exceptions R252). -/
theorem busRead_of_exact {s : State} {off : Offset} {r : Reg} (hr : regAt s.cfg.hasChk off = some r)
    (hexact : ¬ (s.status.busy = true ∧ inJobset r = true)) :
    busRead off .four s = { s with rdata := some (regValue s r) } := by
  have hdraws : readDraws s off .four = false := by simpa [readDraws, hr] using hexact
  simp [busRead, hdraws, readWord, hr]

/-- The write-only ports hold no value, and no job writes them (10_state R21, 60_exceptions R252). -/
theorem Reg.of_writeOnly {r : Reg} (h : r.access = .wo) (s : State) : inJobset r = false ∧ regValue s r = 0 := by
  cases r with
  | cmd | encData | chkData => exact ⟨rfl, rfl⟩
  | _ => cases h

/-! ## Reads by offset -/

/-- A word read at the offset returns the number, and only the record of the read changes (20_memory R63). -/
def State.ReadReturns (s : State) (off value : Nat) : Prop :=
  busRead (BitVec.ofNat 11 off) .four s = { s with rdata := some (BitVec.ofNat 32 value) }

theorem State.readReturns_of_regAt {s : State} {off : Nat} {r : Reg} {n : Nat} {value : BitVec n}
    (hr : regAt s.cfg.hasChk (BitVec.ofNat 11 off) = some r)
    (hexact : s.status.busy = false ∨ inJobset r = false) (hv : regValue s r = value.setWidth 32) :
    s.ReadReturns off value.toNat := by
  rw [State.ReadReturns, BitVec.ofNat_toNat, ← hv]
  refine busRead_of_exact hr ?_
  rcases hexact with h | h
  · simp [h]
  · simp [h]

theorem State.readReturns_of_writeOnly {s : State} {off : Nat} {r : Reg}
    (hr : regAt s.cfg.hasChk (BitVec.ofNat 11 off) = some r) (hwo : r.access = .wo) : s.ReadReturns off 0 := by
  obtain ⟨hjob, hvalue⟩ := Reg.of_writeOnly hwo s
  exact State.readReturns_of_regAt (value := 0#32) hr (.inr hjob) hvalue

theorem regAt_errInfo (hasChk : Bool) : regAt hasChk 0x01C = some .errInfo := by cases hasChk <;> decide
theorem regAt_encPad (hasChk : Bool) : regAt hasChk 0x024 = some .encPad := by cases hasChk <;> decide
theorem regAt_encCount (hasChk : Bool) : regAt hasChk 0x028 = some .encCount := by cases hasChk <;> decide
theorem regAt_decNerr (hasChk : Bool) : regAt hasChk 0x038 = some .decNerr := by cases hasChk <;> decide
theorem regAt_chkMax : regAt true 0x044 = some .chkMax := by decide
theorem regAt_chkSum : regAt true 0x048 = some .chkSum := by decide
theorem regAt_chkId : regAt true 0x04C = some .chkId := by decide
theorem regAt_chkLen : regAt true 0x050 = some .chkLen := by decide
theorem regAt_chkCount : regAt true 0x054 = some .chkCount := by decide
theorem regAt_chkTrailer : regAt true 0x058 = some .chkTrailer := by decide

/-- The registers outside JOBSET that every block has. -/
theorem State.readReturns_always (s : State) :
    s.ReadReturns 0x010 s.ctrl.toNat ∧ s.ReadReturns 0x014 0 ∧ s.ReadReturns 0x01C s.errInfo.toNat ∧
      s.ReadReturns 0x020 0 ∧ s.ReadReturns 0x02C s.gfA.toNat ∧ s.ReadReturns 0x030 s.gfB.toNat ∧
      s.ReadReturns 0x034 s.gfR.toNat :=
  ⟨State.readReturns_of_regAt (regAt_ctrl _) (.inr rfl) rfl,
    State.readReturns_of_writeOnly (regAt_cmd _) rfl,
    State.readReturns_of_regAt (regAt_errInfo _) (.inr rfl) (BitVec.setWidth_eq _).symm,
    State.readReturns_of_writeOnly (regAt_encData _) rfl,
    State.readReturns_of_regAt (regAt_gfA _) (.inr rfl) rfl,
    State.readReturns_of_regAt (regAt_gfB _) (.inr rfl) rfl,
    State.readReturns_of_regAt (regAt_gfR _) (.inr rfl) rfl⟩

/-- The registers of the validator. -/
theorem State.readReturns_validator {s : State} (hk : s.cfg.hasChk = true) :
    s.ReadReturns 0x040 0 ∧ s.ReadReturns 0x044 s.chkMax.toNat ∧ s.ReadReturns 0x048 s.chkSum.toNat ∧
      s.ReadReturns 0x04C s.chkId.toNat ∧ s.ReadReturns 0x050 s.chkLen.toNat ∧
      s.ReadReturns 0x054 s.chkCount.toNat ∧ s.ReadReturns 0x058 s.chkTrailer.toNat :=
  ⟨State.readReturns_of_writeOnly (hk ▸ regAt_chkData) rfl,
    State.readReturns_of_regAt (hk ▸ regAt_chkMax) (.inr rfl) rfl,
    State.readReturns_of_regAt (hk ▸ regAt_chkSum) (.inr rfl) rfl,
    State.readReturns_of_regAt (hk ▸ regAt_chkId) (.inr rfl) rfl,
    State.readReturns_of_regAt (hk ▸ regAt_chkLen) (.inr rfl) rfl,
    State.readReturns_of_regAt (hk ▸ regAt_chkCount) (.inr rfl) rfl,
    State.readReturns_of_regAt (hk ▸ regAt_chkTrailer) (.inr rfl) rfl⟩

/-- CW is mapped at the word offsets from 0x400 on. -/
theorem State.readReturns_cw {s : State} (h : s.ready) {k : Nat} (hk : k ≤ 254) :
    s.ReadReturns (0x400 + 4 * k) (s.cwByte k).toNat := by
  have hindex : (BitVec.ofNat 8 k).toNat = k := by
    rw [BitVec.toNat_ofNat]
    omega
  refine State.readReturns_of_regAt (regAt_cw _ ⟨k, by omega⟩) (.inl h) ?_
  simp only [regValue, hindex]

/-- The registers of JOBSET, where no job is running. -/
theorem State.readReturns_ready {s : State} (h : s.ready) :
    s.ReadReturns 0x024 s.encPad.toNat ∧ s.ReadReturns 0x028 s.encCount.toNat ∧ s.ReadReturns 0x038 s.decNerr.toNat ∧
      (∀ j : Fin 32, s.ReadReturns (0x080 + 4 * j.val) s.parity[j].toNat) ∧
      (∀ i : Fin 32, s.ReadReturns (0x100 + 4 * i.val) s.syn[i].toNat) ∧
      (∀ k : Fin 16, s.ReadReturns (0x180 + 4 * k.val) s.errLoc[k].toNat) ∧
      ∀ k : Nat, k ≤ 254 → s.ReadReturns (0x400 + 4 * k) (s.cwByte k).toNat :=
  ⟨State.readReturns_of_regAt (regAt_encPad _) (.inl h) rfl,
    State.readReturns_of_regAt (regAt_encCount _) (.inl h) rfl,
    State.readReturns_of_regAt (regAt_decNerr _) (.inl h) rfl,
    fun j => State.readReturns_of_regAt (regAt_parity _ j) (.inl h) rfl,
    fun i => State.readReturns_of_regAt (regAt_syn _ i) (.inl h) rfl,
    fun k => State.readReturns_of_regAt (regAt_errLoc _ k) (.inl h) rfl,
    fun _ hk => State.readReturns_cw h hk⟩

/-! ## The statement -/

/-- Settles O17: reads by what is at their offset, then the register map offset by offset. -/
theorem readsReturnRegistersAndChangeNothing : Obligations.ReadsReturnRegistersAndChangeNothing := by
  intro s
  refine ⟨fun off size => ⟨?_, fun hzero => ?_, fun r hsize hr => ⟨fun hwo => ?_, fun hexact => ?_⟩⟩,
    fun off size hgap => busRead_of_unmapped (regAt_of_gap _ off hgap) size,
    s.readReturns_always, State.readReturns_validator, State.readReturns_ready⟩
  · obtain ⟨rdata, draws, heq⟩ := busRead_frame off size s
    rw [heq]
  · rcases hzero with hsize | halign | hnone
    · rw [busRead_of_badSize hsize]
    · rw [busRead_of_unmapped (regAt_of_misaligned halign _)]
    · rw [busRead_of_unmapped hnone]
  · obtain ⟨hjob, hvalue⟩ := Reg.of_writeOnly hwo s
    rw [hsize, busRead_of_mapped hr hjob, hvalue]
  · rw [hsize, busRead_of_exact hr hexact]
    exact ⟨rfl, rfl⟩

end Sys2Proof.Machine
end

section
/-! PROOFS. The encoding: the decoder inverts the encoder (O1, O2, O3), the three classes of command words (O4), and the
two words without effect (O5); every instruction answers (O7). -/

namespace Sys2Proof.Machine

/-! ## The decoder inverts the encoder (30_encoding R81 to R87) -/

@[simp] theorem plainCmd_cmdWord (opc : Byte) (i : Instr) : plainCmd (cmdWord opc 0#8 0#16) i = .ok i := by
  simp [plainCmd]

@[simp] theorem padCmd_cmdWord (opc pad : Byte) (i : Byte → Instr) :
    padCmd (cmdWord opc pad 0#16) i = .ok (i pad) := by
  simp [padCmd]

@[simp] theorem clrStatusCmd_cmdWord (opc : Byte) (mask : BitVec 3) :
    clrStatusCmd (cmdWord opc (mask.setWidth 8) 0#16) = .ok (.clrStatus mask) := by
  have hmask : ∀ mask : BitVec 3,
      (mask.setWidth 8).extractLsb' 3 5 = 0#5 ∧ (mask.setWidth 8).setWidth 3 = mask := by decide
  simp [clrStatusCmd, hmask]

@[simp] theorem chkSetmaxCmd_cmdWord (opc : Byte) (size : BitVec 16) :
    chkSetmaxCmd (cmdWord opc 0#8 size) = .ok (.chkSetmax size) := by
  simp [chkSetmaxCmd]

/-- The decoder reads back every instruction that exists. -/
theorem decodeWrite_encode {hasChk : Bool} {i : Instr} (hwf : i.wf = true) (hchk : i.needsChk = true → hasChk = true) :
    decodeWrite hasChk (encode i) = .ok i := by
  cases i with
  | chkInit | chkSetmax _ =>
    cases hchk rfl
    simp [encode, decodeWrite_command, decodeCommand]
  | wrCtrl data => exact decodeWrite_port (regAt_ctrl hasChk) data
  | encData data => exact decodeWrite_port (regAt_encData hasChk) data
  | wrGfA data => exact decodeWrite_port (regAt_gfA hasChk) data
  | wrGfB data => exact decodeWrite_port (regAt_gfB hasChk) data
  | wrGfR data => exact decodeWrite_port (regAt_gfR hasChk) data
  | chkData data =>
    cases hchk rfl
    exact decodeWrite_port regAt_chkData data
  | wrCw k data => exact decodeWrite_port (regAt_cwOffset hasChk k (by simpa [Instr.wf] using hwf)) data
  | _ => simp [encode, decodeWrite_command, decodeCommand]

/-- Settles O2, instruction by instruction: the fields of its word, or the register at its offset. -/
theorem decodeOfEncode : Obligations.DecodeOfEncode := fun _ _ => decodeWrite_encode

/-- Settles O1: eight closed evaluations of the decoder. -/
theorem specWordsDecode : Obligations.SpecWordsDecode := by
  unfold Obligations.SpecWordsDecode
  decide

/-! ## A write that decodes is an encoding -/

theorem decodeWrite_unmapped {hasChk : Bool} {off : Offset} (h : regAt hasChk off = none) (data : Word) :
    decodeWrite hasChk (portWrite off data) = .error .access := by
  simp only [decodeWrite, portWrite, h]

/-- The one index without a byte of CW is at an unmapped offset (10_state R22). -/
theorem wf_of_decodeWrite_encode {hasChk : Bool} {i : Instr} (h : decodeWrite hasChk (encode i) = .ok i) :
    i.wf = true := by
  cases i with
  | wrCw k data =>
    refine bne_iff_ne.mpr fun hk => ?_
    subst hk
    exact nomatch (decodeWrite_unmapped (regAt_cwOffset_255 hasChk) data).symm.trans h
  | _ => rfl

/-- Without the validator its opcodes are illegal and its port is unmapped (10_state R53). -/
theorem hasChk_of_decodeWrite_encode {hasChk : Bool} {i : Instr} (h : decodeWrite hasChk (encode i) = .ok i)
    (hchk : i.needsChk = true) : hasChk = true := by
  refine Bool.eq_true_of_not_eq_false fun hk => ?_
  subst hk
  cases i with
  | chkInit | chkSetmax _ => simp [encode, decodeWrite_command, decodeCommand] at h
  | chkData data =>
    have hoff : regAt false 0x040 = none := regAt_of_validatorAbsent _ (by decide) (by decide)
    exact nomatch (decodeWrite_unmapped hoff data).symm.trans h
  | _ => cases hchk

/-- Settles O3: the write is the encoding of its instruction, and that encoding decodes. -/
theorem encodeOfDecode : Obligations.EncodeOfDecode := by
  intro hasChk a i h
  obtain rfl := encode_of_decodeWrite h
  exact ⟨rfl, wf_of_decodeWrite_encode h, hasChk_of_decodeWrite_encode h⟩

/-! ## Required-zero bits, field by field (30_encoding R84) -/

/-- A word and a mask share no set bit when their fields share none. -/
theorem and_eq_zero_iff_fields (w mask : Word) :
    w &&& mask = 0 ↔
      opcOf w &&& opcOf mask = 0 ∧ argAOf w &&& argAOf mask = 0 ∧ argBOf w &&& argBOf mask = 0 := by
  have hopc : opcOf w &&& opcOf mask = opcOf (w &&& mask) := BitVec.extractLsb'_and.symm
  have hargA : argAOf w &&& argAOf mask = argAOf (w &&& mask) := BitVec.extractLsb'_and.symm
  have hargB : argBOf w &&& argBOf mask = argBOf (w &&& mask) := BitVec.extractLsb'_and.symm
  rw [hopc, hargA, hargB]
  constructor
  · intro h
    rw [h]
    decide
  · rintro ⟨ho, ha, hb⟩
    rw [← cmdWord_fields (w &&& mask), ho, ha, hb]
    decide

/-- What the decoder answers for a legal opcode with these required-zero bits. -/
def ChecksZeroBits (w zeroBits : Word) (r : Except Reject Instr) : Prop :=
  (w &&& zeroBits ≠ 0 → r = .error .rsvdArg) ∧ (w &&& zeroBits = 0 → ∃ i, r = .ok i)

theorem checksZeroBits_ite {w zeroBits : Word} {p : Prop} [Decidable p] (h : w &&& zeroBits = 0 ↔ p) (i : Instr) :
    ChecksZeroBits w zeroBits (if p then .ok i else .error .rsvdArg) :=
  ⟨fun hw => if_neg (mt h.mpr hw), fun hw => ⟨i, if_pos (h.mp hw)⟩⟩

theorem plainCmd_checksZeroBits (w : Word) (i : Instr) : ChecksZeroBits w 0xFFFFFF00 (plainCmd w i) := by
  have hmask : opcOf 0xFFFFFF00 = 0 ∧ argAOf 0xFFFFFF00 = BitVec.allOnes 8 ∧
      argBOf 0xFFFFFF00 = BitVec.allOnes 16 := by decide
  refine checksZeroBits_ite ?_ i
  simp only [and_eq_zero_iff_fields, hmask, BitVec.and_allOnes]
  simp

theorem padCmd_checksZeroBits (w : Word) (i : Byte → Instr) : ChecksZeroBits w 0xFFFF0000 (padCmd w i) := by
  have hmask : opcOf 0xFFFF0000 = 0 ∧ argAOf 0xFFFF0000 = 0 ∧ argBOf 0xFFFF0000 = BitVec.allOnes 16 := by decide
  refine checksZeroBits_ite ?_ _
  simp only [and_eq_zero_iff_fields, hmask, BitVec.and_allOnes]
  simp

theorem clrStatusCmd_checksZeroBits (w : Word) : ChecksZeroBits w 0xFFFFF800 (clrStatusCmd w) := by
  have hmask : opcOf 0xFFFFF800 = 0 ∧ argAOf 0xFFFFF800 = 0xF8 ∧ argBOf 0xFFFFF800 = BitVec.allOnes 16 := by decide
  have hhigh : ∀ a : Byte, a &&& 0xF8 = 0 ↔ a.extractLsb' 3 5 = 0 := by decide
  refine checksZeroBits_ite ?_ _
  simp only [and_eq_zero_iff_fields, hmask, hhigh, BitVec.and_allOnes]
  simp

theorem chkSetmaxCmd_checksZeroBits (w : Word) : ChecksZeroBits w 0x0000FF00 (chkSetmaxCmd w) := by
  have hmask : opcOf 0x0000FF00 = 0 ∧ argAOf 0x0000FF00 = BitVec.allOnes 8 ∧ argBOf 0x0000FF00 = 0 := by decide
  refine checksZeroBits_ite ?_ _
  simp only [and_eq_zero_iff_fields, hmask, BitVec.and_allOnes]
  simp

/-! ## The table of legal opcodes (30_encoding R83, R85) -/

theorem mem_commandTable {hasChk : Bool} {w zeroBits : Word} {n : Nat} (ho : (opcOf w).toNat = n)
    (h : (BitVec.ofNat 8 n, zeroBits) ∈ commandTable hasChk) : (opcOf w, zeroBits) ∈ commandTable hasChk := by
  rwa [← ho, BitVec.ofNat_toNat, BitVec.setWidth_eq] at h

/-- The table lists no opcode twice. -/
theorem zeroBits_unique {hasChk : Bool} {opc : Byte} {z z' : Word} (h : (opc, z) ∈ commandTable hasChk)
    (h' : (opc, z') ∈ commandTable hasChk) : z = z' := by
  have hnodup : ∀ hasChk, ((commandTable hasChk).map Prod.fst).Nodup := by decide
  exact congrArg Prod.snd (List.inj_on_of_nodup_map (hnodup hasChk) h h' rfl)

/-- The decoder of a command word follows the table: an opcode in it has its required-zero bits checked, any other is
illegal. -/
theorem decodeCommand_cases (hasChk : Bool) (w : Word) :
    (∃ zeroBits, (opcOf w, zeroBits) ∈ commandTable hasChk ∧ ChecksZeroBits w zeroBits (decodeCommand hasChk w)) ∨
    ((∀ zeroBits, (opcOf w, zeroBits) ∉ commandTable hasChk) ∧ decodeCommand hasChk w = .error .badOpcode) := by
  unfold decodeCommand
  split
  case h_1 ho | h_2 ho | h_5 ho | h_7 ho | h_8 ho | h_9 ho | h_10 ho | h_11 ho | h_12 ho | h_13 ho | h_14 ho =>
    exact .inl ⟨_, mem_commandTable ho (by cases hasChk <;> decide), plainCmd_checksZeroBits w _⟩
  case h_3 ho => exact .inl ⟨_, mem_commandTable ho (by cases hasChk <;> decide), clrStatusCmd_checksZeroBits w⟩
  case h_4 ho | h_6 ho | h_15 ho | h_16 ho =>
    exact .inl ⟨_, mem_commandTable ho (by cases hasChk <;> decide), padCmd_checksZeroBits w _⟩
  case h_17 ho =>
    cases hasChk with
    | true => exact .inl ⟨_, mem_commandTable ho (by decide), plainCmd_checksZeroBits w _⟩
    | false => exact .inr ⟨by simp [commandTable, ← BitVec.toNat_inj, ho], rfl⟩
  case h_18 ho =>
    cases hasChk with
    | true => exact .inl ⟨_, mem_commandTable ho (by decide), chkSetmaxCmd_checksZeroBits w⟩
    | false => exact .inr ⟨by simp [commandTable, ← BitVec.toNat_inj, ho], rfl⟩
  case h_19 =>
    -- no entry of the table matched
    refine .inr ⟨fun zeroBits hmem => ?_, rfl⟩
    cases hasChk <;> simp_all [commandTable, ← BitVec.toNat_inj]

/-! ## Rejected command words on an idle block (60_exceptions R244 step 5) -/

theorem busWrite_of_badOpcode {s : State} (hr : s.ready) {w : Word}
    (h : decodeWrite s.cfg.hasChk (commandWrite w) = .error .badOpcode) :
    busWrite (commandWrite w) s = .next (s.rejected .badOpcode w) := by
  simp only [busWrite, h, unlessBusy_of_ready hr]
  exact raiseError_eq _ _ s

theorem busWrite_of_rsvdArg {s : State} (hr : s.ready) {w : Word}
    (h : decodeWrite s.cfg.hasChk (commandWrite w) = .error .rsvdArg) :
    busWrite (commandWrite w) s = .next (s.rejected .rsvdArg w) := by
  simp only [busWrite, h, unlessBusy_of_ready hr]
  exact raiseError_eq _ _ s

/-- Settles O4: the decoder follows the table of legal opcodes, which gives each its required-zero bits. -/
theorem commandWordsFallInThreeClasses : Obligations.CommandWordsFallInThreeClasses := by
  intro hasChk w
  simp only [decodeWrite_command]
  rcases decodeCommand_cases hasChk w with ⟨zeroBits, hmem, hreserved, hlegal⟩ | ⟨hout, hbad⟩
  · refine ⟨fun hout => absurd hmem (hout zeroBits), fun z hz => ?_⟩
    obtain rfl := zeroBits_unique hmem hz
    refine ⟨fun hw => ⟨hreserved hw, ?_⟩, hlegal⟩
    rintro s rfl hr
    exact busWrite_of_rsvdArg hr ((decodeWrite_command _ w).trans (hreserved hw))
  · refine ⟨fun _ => ⟨hbad, ?_⟩, fun z hz => absurd hz (hout z)⟩
    rintro s rfl hr
    exact busWrite_of_badOpcode hr ((decodeWrite_command _ w).trans hbad)

/-! ## The words without effect (30_encoding R86) -/

/-- A write that is an instruction's encoding runs it. -/
theorem busWrite_encode {i : Instr} {s : State} (hwf : i.wf = true) (hchk : i.needsChk = true → s.cfg.hasChk = true) :
    busWrite (encode i) s = exec i s :=
  busWrite_of_decode (decodeWrite_encode hwf hchk)

theorem exec_nop_of_ready {s : State} (h : s.ready) : exec .nop s = complete s := unlessBusy_of_ready h _ _

theorem exec_clrStatus_of_ready {s : State} (h : s.ready) (mask : BitVec 3) :
    exec (.clrStatus mask) s = complete (s.clearStatus mask) := unlessBusy_of_ready h _ _

/-- An idle state, without and with an error recorded. No command but NOP and CLR_STATUS 0 leaves both forms unchanged:
the flags that CLR_STATUS clears are set, no encode and no package is open, GF_R is no result of a GF command, and CHK_MAX
is above CHK_CAP, so no size that is accepted equals it. -/
def commandProbe (err : Bool) : State :=
  { State.reset with
    status := { Status.reset with done := true, err := err, chkRes := .pass }
    gfA := 2, gfB := 3, gfR := 7, chkMax := 65535 }

/-- The first rejected write sets ERR (60_exceptions R241). -/
theorem State.rejected_ne_self {s : State} (h : s.status.err = false) (code : ErrCode) (info : Word) :
    s.rejected code info ≠ s := by
  intro heq
  have herr : (s.rejected code info).status.err = true := by simp [State.rejected, State.capture, h]
  rw [heq, h] at herr
  cases herr

theorem gfResult_ne_commandProbe : ∀ i ∈ [Instr.gfAdd, .gfMul, .gfDiv, .gfInv, .gfExp, .gfLog, .gfMac, .gfHorner],
    (effect i (commandProbe false)).gfR ≠ (commandProbe false).gfR := by
  decide +kernel

/-- Each mask bit of CLR_STATUS clears a flag that is set in the probe. -/
theorem mask_eq_zero_of_clearStatus_commandProbe : ∀ mask : BitVec 3,
    ((commandProbe true).clearStatus mask).settleIrq = commandProbe true → mask = 0 := by
  decide

theorem cwOffset_ne_cmdOffset : ∀ k : Byte, cwOffset k ≠ cmdOffset := by decide +kernel

/-- A command that leaves both forms of the probe unchanged: a rejected one sets ERR, any other has its effect. -/
theorem noOp_of_exec_commandProbe {i : Instr} (hcmd : (encode i).off = cmdOffset)
    (h : ∀ err, exec i (commandProbe err) = .next (commandProbe err)) : i = .nop ∨ i = .clrStatus 0 := by
  rcases exec_cases (h false) with ⟨code, info, -, heq⟩ | ⟨ha, heq⟩
  · exact absurd heq.symm (State.rejected_ne_self rfl code info)
  obtain ⟨-, -, hguard⟩ := ha
  cases i with
  | nop => exact .inl rfl
  | softReset => exact absurd (congrArg State.gfR heq) (by decide)
  | clrStatus mask =>
    have hclear : Host.Outcome.next ((commandProbe true).clearStatus mask).settleIrq = .next (commandProbe true) :=
      (exec_clrStatus_of_ready rfl mask).symm.trans (h true)
    injection hclear with hkept
    exact .inr (congrArg Instr.clrStatus (mask_eq_zero_of_clearStatus_commandProbe mask hkept))
  | encInit _ => exact absurd (congrArg (·.status.encActive) heq) Bool.false_ne_true
  | encFinish => exact absurd hguard.1 Bool.false_ne_true
  | encBlock _ | synCalc _ | decCorrect _ => exact absurd (congrArg (·.status.busy) heq) Bool.false_ne_true
  | gfAdd | gfMul | gfDiv | gfInv | gfExp | gfLog | gfMac | gfHorner =>
    exact absurd (congrArg State.gfR heq).symm (gfResult_ne_commandProbe _ (by decide))
  | chkInit => exact absurd (congrArg (·.status.chkActive) heq) Bool.false_ne_true
  | chkSetmax size =>
    obtain rfl : 65535 = size := congrArg State.chkMax heq
    exact absurd hguard (by decide)
  | wrCw k _ => exact absurd hcmd (cwOffset_ne_cmdOffset k)
  | _ => exact absurd hcmd (by simp [encode, portWrite])

/-- Settles O5: the probe shows every other word to have an effect; the two words are those of NOP and CLR_STATUS 0. -/
theorem onlyTwoNoOpWords : Obligations.OnlyTwoNoOpWords := by
  intro w
  constructor
  · intro h
    have hprobe (err : Bool) : busWrite (commandWrite w) (commandProbe err) = .next (commandProbe err) :=
      h _ rfl (by cases err <;> decide)
    rcases busWrite_cases (hprobe false) with ⟨code, info, -, heq⟩ | ⟨i, hi, -⟩
    · exact absurd heq.symm (State.rejected_ne_self rfl code info)
    · have hw : encode i = commandWrite w := encode_of_decodeWrite hi
      have hexec (err : Bool) : exec i (commandProbe err) = .next (commandProbe err) :=
        (busWrite_of_decode (s := commandProbe err) hi).symm.trans (hprobe err)
      rcases noOp_of_exec_commandProbe (congrArg BusWrite.off hw) hexec with rfl | rfl
      · exact .inl (congrArg BusWrite.data hw).symm
      · exact .inr (congrArg BusWrite.data hw).symm
  · intro hw s hr hirq
    have hsettled : complete s = .next s := by rw [complete_eq, State.settleIrq, ← hirq]
    rcases hw with rfl | rfl
    · calc busWrite (encode .nop) s = exec .nop s := busWrite_encode rfl nofun
        _ = complete s := exec_nop_of_ready hr
        _ = .next s := hsettled
    · calc busWrite (encode (.clrStatus 0)) s = exec (.clrStatus 0) s := busWrite_encode rfl nofun
        _ = complete s := exec_clrStatus_of_ready hr 0
        _ = .next s := hsettled

/-! ## Every instruction answers -/

/-- Settles O7: no instruction gets stuck. -/
theorem everyInstructionAnswersNext : Obligations.EveryInstructionAnswersNext := exec_answers

end Sys2Proof.Machine
end

section
/-! PROOFS. The powers of alpha for a primitive FIELD_POLY, and the tables in terms of them (O28). -/

namespace Sys2Proof.Machine

/-! ## Powers of alpha as iterations of `xtime` -/

theorem alphaPow_eq_iterate (p : BitVec 9) (e : Nat) : alphaPow p e = (xtime p)^[e] 1 := by
  induction e with
  | zero => rfl
  | succ e ih => rw [Function.iterate_succ_apply', ← ih, alphaPow]

theorem iterate_xtime_alphaPow (p : BitVec 9) (i j : Nat) : (xtime p)^[i] (alphaPow p j) = alphaPow p (i + j) := by
  rw [alphaPow_eq_iterate, alphaPow_eq_iterate, Function.iterate_add_apply]

theorem iterate_xtime_zero (p : BitVec 9) (i : Nat) : (xtime p)^[i] 0 = 0 := Function.iterate_fixed (xtime_zero p) i

/-! ## The tables as the loop of 40_gf_arith R101 builds them -/

theorem alpha_romOf (p : BitVec 9) (e : Byte) : (romOf p).alpha e = (powersFrom p 255 1).getD e.toNat 0 := by
  rw [romOf_eq_buildRom]
  exact getElem_tabulate 256 _ _ e.isLt

theorem index_romOf (p : BitVec 9) (a : Byte) :
    (romOf p).index a = if a = 0 then 255 else BitVec.ofNat 8 ((powersFrom p 255 1).idxOf a) := by
  rw [romOf_eq_buildRom]
  refine (getElem_tabulate 256 _ _ a.isLt).trans ?_
  rw [BitVec.ofNat_toNat, BitVec.setWidth_eq]
  exact if_congr (BitVec.toNat_inj (y := 0#8)) rfl rfl

theorem getElem_powersFrom_one (p : BitVec 9) {e : Nat} (he : e < 255) :
    (powersFrom p 255 1)[e]'(by simpa using he) = alphaPow p e := by
  have h := powersFrom_getElem p 255 0 e he
  rwa [Nat.zero_add] at h

/-- `alpha_to[e] = alpha^e`, up to 254 (40_gf_arith R101). -/
theorem alpha_ofNat (p : BitVec 9) {e : Nat} (he : e < 255) : (romOf p).alpha (BitVec.ofNat 8 e) = alphaPow p e := by
  have hlen : e < (powersFrom p 255 1).length := by simpa using he
  rw [alpha_romOf, BitVec.toNat_ofNat, Nat.mod_eq_of_lt (by omega), List.getD_eq_getElem _ _ hlen,
    getElem_powersFrom_one p he]

theorem alpha_sentinel (p : BitVec 9) : (romOf p).alpha 255 = 0 := by
  rw [alpha_romOf]
  exact List.getD_eq_default _ _ (by simp)

theorem index_zero (p : BitVec 9) : (romOf p).index 0 = 255 := (index_romOf p 0).trans (if_pos rfl)

section Primitive

variable {p : BitVec 9} (hp : isPrimitive p = true)
include hp

/-- x has order exactly 255 (40_gf_arith R100): 255 is the period of `xtime` at 1. -/
theorem minimalPeriod_xtime : Function.minimalPeriod (xtime p) 1 = 255 := by
  obtain ⟨-, hone, hfirst⟩ := (isPrimitive_iff p).mp hp
  have hperiodic : Function.IsPeriodicPt (xtime p) 255 1 := (alphaPow_eq_iterate p 255).symm.trans hone
  refine le_antisymm (hperiodic.minimalPeriod_le (by decide)) (Nat.le_of_not_lt fun hlt => ?_)
  refine hfirst _ (hperiodic.minimalPeriod_pos (by decide)) hlt ?_
  rw [alphaPow_eq_iterate]
  exact Function.iterate_minimalPeriod

theorem alphaPow_255 : alphaPow p 255 = 1 := ((isPrimitive_iff p).mp hp).2.1

/-- Exponents count modulo 255 (40_gf_arith R104). -/
theorem alphaPow_mod (e : Nat) : alphaPow p (e % 255) = alphaPow p e := by
  have h := Function.iterate_mod_minimalPeriod_eq (f := xtime p) (x := 1) (n := e)
  rwa [minimalPeriod_xtime hp, ← alphaPow_eq_iterate, ← alphaPow_eq_iterate] at h

theorem alphaPow_injOn : Set.InjOn (alphaPow p) (Set.Iio 255) := by
  have h := Function.iterate_injOn_Iio_minimalPeriod (f := xtime p) (x := 1)
  rw [minimalPeriod_xtime hp] at h
  exact h.congr fun e _ => (alphaPow_eq_iterate p e).symm

/-- Zero is no power: alpha^255 would then be 0 too. -/
theorem alphaPow_ne_zero (e : Nat) : alphaPow p e ≠ 0 := by
  intro h
  rw [← alphaPow_mod hp] at h
  have hlast := iterate_xtime_alphaPow p (255 - e % 255) (e % 255)
  rw [h, iterate_xtime_zero, Nat.sub_add_cancel (Nat.mod_lt e (by decide)).le, alphaPow_255 hp] at hlast
  exact absurd hlast (by decide)

/-- The 255 powers of alpha are all of the nonzero symbols. -/
theorem eq_zero_or_alphaPow (a : Byte) : a = 0 ∨ ∃ e < 255, a = alphaPow p e := by
  have hmaps : Set.MapsTo (fun e => (alphaPow p e).toNat) (Finset.range 255) (Finset.Ico 1 256) := fun e _ => by
    have hpos : (alphaPow p e).toNat ≠ 0 := fun h => alphaPow_ne_zero hp e (BitVec.eq_of_toNat_eq h)
    have := (alphaPow p e).isLt
    simp only [Finset.coe_Ico, Set.mem_Ico]
    omega
  have hinj : Set.InjOn (fun e => (alphaPow p e).toNat) (Finset.range 255) := fun i hi j hj h =>
    alphaPow_injOn hp (by simpa using hi) (by simpa using hj) (BitVec.eq_of_toNat_eq h)
  have hsurj := Finset.surjOn_of_injOn_of_card_le _ hmaps hinj (by simp)
  refine or_iff_not_imp_left.mpr fun ha => ?_
  have hpos : a.toNat ≠ 0 := fun h => ha (BitVec.eq_of_toNat_eq h)
  have hlt := a.isLt
  obtain ⟨e, he, heq⟩ := hsurj (a := a.toNat) (by simp only [Finset.coe_Ico, Set.mem_Ico]; omega)
  exact ⟨e, by simpa using he, (BitVec.eq_of_toNat_eq heq).symm⟩

/-! ## The tables as powers and logarithms -/

/-- The loop of 40_gf_arith R101 meets no power twice. -/
theorem powersFrom_nodup : (powersFrom p 255 1).Nodup := by
  refine List.nodup_iff_injective_get.mpr fun i j hij => ?_
  have hi : i.val < 255 := i.isLt.trans_eq (powersFrom_length p 255 1)
  have hj : j.val < 255 := j.isLt.trans_eq (powersFrom_length p 255 1)
  refine Fin.ext (alphaPow_injOn hp hi hj ?_)
  rw [← getElem_powersFrom_one p hi, ← getElem_powersFrom_one p hj]
  exact hij

/-- `index_of` is the logarithm (40_gf_arith R101). -/
theorem index_alphaPow (e : Nat) : (romOf p).index (alphaPow p e) = BitVec.ofNat 8 (e % 255) := by
  have hlt : e % 255 < 255 := Nat.mod_lt e (by decide)
  have hlen : e % 255 < (powersFrom p 255 1).length := by simpa using hlt
  rw [index_romOf, if_neg (alphaPow_ne_zero hp e), ← alphaPow_mod hp,
    ← getElem_powersFrom_one p hlt, (powersFrom_nodup hp).idxOf_getElem _ hlen]

theorem toNat_index_alphaPow (e : Nat) : ((romOf p).index (alphaPow p e)).toNat = e % 255 := by
  rw [index_alphaPow hp, BitVec.toNat_ofNat]
  omega

theorem alphaMod_romOf (n : Nat) : (romOf p).alphaMod n = alphaPow p n := by
  rw [Rom.alphaMod, mod255, alpha_ofNat p (Nat.mod_lt n (by decide)), alphaPow_mod hp]

/-- `alpha_to` undoes `index_of`; zero goes through the sentinel. -/
theorem alpha_index (a : Byte) : (romOf p).alpha ((romOf p).index a) = a := by
  rcases eq_zero_or_alphaPow hp a with rfl | ⟨e, he, rfl⟩
  · rw [index_zero, alpha_sentinel]
  · rw [index_alphaPow hp, Nat.mod_eq_of_lt he, alpha_ofNat p he]

/-- `index_of` undoes `alpha_to`; the sentinel goes through zero. -/
theorem index_alpha (e : Byte) : (romOf p).index ((romOf p).alpha e) = e := by
  by_cases he : e = 255
  · rw [he, alpha_sentinel, index_zero]
  · have hlt : e.toNat < 255 := by bv_omega
    have halpha := alpha_ofNat p hlt
    rw [BitVec.ofNat_toNat, BitVec.setWidth_eq] at halpha
    rw [halpha, index_alphaPow hp, Nat.mod_eq_of_lt hlt, BitVec.ofNat_toNat, BitVec.setWidth_eq]

end Primitive

/-- Settles O28: the tables list the powers of alpha, of which no two are equal. -/
theorem tablesArePowersOfAlpha : Obligations.TablesArePowersOfAlpha := fun p hp =>
  ⟨fun e he => ⟨alpha_ofNat p he, by rw [index_alphaPow hp, Nat.mod_eq_of_lt he]⟩, alpha_sentinel p, index_zero p,
    alphaPow_255 hp⟩

end Sys2Proof.Machine
end

section
/-! PROOFS. The product of the tables is the product of the field (O29), and the laws of the field operations (O30). A
symbol is zero or a power of alpha, and a product of powers adds their exponents. -/

namespace Sys2Proof.Machine

/-! ## The product of polynomials modulo F(x) -/

theorem fieldMul_xtime (p : BitVec 9) (a b : Byte) : fieldMul p (xtime p a) b = xtime p (fieldMul p a b) := by
  unfold fieldMul
  conv_lhs => rw [← xtime_zero p]
  refine List.foldl_hom (xtime p) fun acc i => ?_
  split
  · rw [xtime_xor, ← Function.iterate_succ_apply, Function.iterate_succ_apply']
  · rfl

/-- The product of two powers adds a step of `xtime` for each factor alpha. -/
theorem fieldMul_iterate_xtime (p : BitVec 9) (i : Nat) (a b : Byte) :
    fieldMul p ((xtime p)^[i] a) b = (xtime p)^[i] (fieldMul p a b) := by
  have hsemi : Function.Semiconj (fieldMul p · b) (xtime p) (xtime p) := fun a => fieldMul_xtime p a b
  exact hsemi.iterate_right i a

/-- The first powers of x are below its degree 8, so nothing is reduced. -/
theorem iterate_xtime_one (p : BitVec 9) {i : Nat} (hi : i < 8) : (xtime p)^[i] 1 = (1 : Byte) <<< i := by
  induction i with
  | zero => rfl
  | succ i ih =>
    have hmsb : ∀ i < 7, ¬ ((1 : Byte) <<< i).msb = true := by decide
    rw [Function.iterate_succ_apply', ih (by omega), xtime, if_neg (hmsb i (by omega)), BitVec.shiftLeft_add]

theorem fieldMul_one_left (p : BitVec 9) (b : Byte) : fieldMul p 1 b = b := by
  have hbits : ∀ b : Byte,
      (List.range 8).foldl (fun acc i => if b.getLsbD i then acc ^^^ (1 : Byte) <<< i else acc) 0 = b := by
    decide +kernel
  refine Eq.trans (List.foldl_ext _ _ _ fun acc i hi => ?_) (hbits b)
  rw [iterate_xtime_one p (List.mem_range.mp hi)]

/-- The bits of a sum are the sums of the bits. -/
theorem fieldMul_xor (p : BitVec 9) (a b c : Byte) : fieldMul p a (b ^^^ c) = fieldMul p a b ^^^ fieldMul p a c := by
  show List.foldl _ ((0 : Byte) ^^^ (0 : Byte)) _ = _
  refine List.foldl_hom₂ _ (· ^^^ ·) _ _ _ 0 0 fun x y i => ?_
  generalize (xtime p)^[i] a = m
  rw [BitVec.getLsbD_xor]
  cases b.getLsbD i <;> cases c.getLsbD i
  · rfl
  · exact (BitVec.xor_assoc x y m).symm
  · show x ^^^ m ^^^ y = x ^^^ y ^^^ m
    ac_rfl
  · show x ^^^ m ^^^ (y ^^^ m) = x ^^^ y
    calc x ^^^ m ^^^ (y ^^^ m) = x ^^^ y ^^^ (m ^^^ m) := by ac_rfl
      _ = x ^^^ y := by rw [BitVec.xor_self, BitVec.xor_zero]

theorem fieldMul_zero_left (p : BitVec 9) (b : Byte) : fieldMul p 0 b = 0 :=
  List.foldl_fixed' (fun i => by rw [iterate_xtime_zero]; exact ite_self 0) _

theorem fieldMul_zero_right (p : BitVec 9) (a : Byte) : fieldMul p a 0 = 0 :=
  List.foldl_fixed' (fun i => by simp) _

/-! ## The product of the tables -/

theorem gmul_zero_left (rom : Rom) (b : Byte) : gmul rom 0 b = 0 := if_pos (.inl rfl)

theorem gmul_zero_right (rom : Rom) (a : Byte) : gmul rom a 0 = 0 := if_pos (.inr rfl)

theorem gmul_comm (rom : Rom) (a b : Byte) : gmul rom a b = gmul rom b a := by
  simp only [gmul, or_comm, Nat.add_comm]

section Primitive

variable {p : BitVec 9} (hp : isPrimitive p = true)
include hp

theorem gmul_alphaPow (i j : Nat) : gmul (romOf p) (alphaPow p i) (alphaPow p j) = alphaPow p (i + j) := by
  have hne : ¬ (alphaPow p i = 0 ∨ alphaPow p j = 0) := not_or.mpr ⟨alphaPow_ne_zero hp i, alphaPow_ne_zero hp j⟩
  rw [gmul, if_neg hne, toNat_index_alphaPow hp, toNat_index_alphaPow hp, alphaMod_romOf hp, ← alphaPow_mod hp,
    ← Nat.add_mod, alphaPow_mod hp]

theorem gmul_eq_fieldMul (a b : Byte) : gmul (romOf p) a b = fieldMul p a b := by
  rcases eq_zero_or_alphaPow hp a with rfl | ⟨i, -, rfl⟩
  · rw [gmul_zero_left, fieldMul_zero_left]
  rcases eq_zero_or_alphaPow hp b with rfl | ⟨j, -, rfl⟩
  · rw [gmul_zero_right, fieldMul_zero_right]
  · calc gmul (romOf p) (alphaPow p i) (alphaPow p j) = alphaPow p (i + j) := gmul_alphaPow hp i j
      _ = (xtime p)^[i] (fieldMul p 1 (alphaPow p j)) := by rw [fieldMul_one_left, iterate_xtime_alphaPow]
      _ = fieldMul p (alphaPow p i) (alphaPow p j) := by rw [← fieldMul_iterate_xtime, ← alphaPow_eq_iterate]

/-! ## The laws (40_gf_arith R116) -/

theorem gmul_assoc (a b c : Byte) :
    gmul (romOf p) (gmul (romOf p) a b) c = gmul (romOf p) a (gmul (romOf p) b c) := by
  rcases eq_zero_or_alphaPow hp a with rfl | ⟨i, -, rfl⟩
  · simp only [gmul_zero_left]
  rcases eq_zero_or_alphaPow hp b with rfl | ⟨j, -, rfl⟩
  · simp only [gmul_zero_left, gmul_zero_right]
  rcases eq_zero_or_alphaPow hp c with rfl | ⟨k, -, rfl⟩
  · simp only [gmul_zero_right]
  · simp only [gmul_alphaPow hp, Nat.add_assoc]

theorem gmul_xor (a b c : Byte) : gmul (romOf p) a (b ^^^ c) = gmul (romOf p) a b ^^^ gmul (romOf p) a c := by
  simp only [gmul_eq_fieldMul hp, fieldMul_xor]

theorem xor_gmul (a b c : Byte) : gmul (romOf p) (a ^^^ b) c = gmul (romOf p) a c ^^^ gmul (romOf p) b c := by
  simp only [gmul_comm _ _ c, gmul_xor hp]

theorem gmul_one_left (a : Byte) : gmul (romOf p) 1 a = a := by rw [gmul_eq_fieldMul hp, fieldMul_one_left]

theorem gmul_one_right (a : Byte) : gmul (romOf p) a 1 = a := by rw [gmul_comm, gmul_one_left hp]

/-- There are no zero divisors. -/
theorem gmul_eq_zero (a b : Byte) : gmul (romOf p) a b = 0 ↔ a = 0 ∨ b = 0 := by
  constructor
  · contrapose!
    rintro ⟨ha, hb⟩
    obtain ⟨i, -, rfl⟩ := (eq_zero_or_alphaPow hp a).resolve_left ha
    obtain ⟨j, -, rfl⟩ := (eq_zero_or_alphaPow hp b).resolve_left hb
    rw [gmul_alphaPow hp]
    exact alphaPow_ne_zero hp _
  · rintro (rfl | rfl)
    · exact gmul_zero_left _ b
    · exact gmul_zero_right _ a

theorem ginv_alphaPow {e : Nat} (he : e < 255) : ginv (romOf p) (alphaPow p e) = alphaPow p (255 - e) := by
  rw [ginv, toNat_index_alphaPow hp, alphaMod_romOf hp, Nat.mod_eq_of_lt he]

theorem gmul_ginv {a : Byte} (ha : a ≠ 0) : gmul (romOf p) a (ginv (romOf p) a) = 1 := by
  obtain ⟨e, he, rfl⟩ := (eq_zero_or_alphaPow hp a).resolve_left ha
  rw [ginv_alphaPow hp he, gmul_alphaPow hp, Nat.add_sub_cancel' he.le, alphaPow_255 hp]

theorem gdiv_eq_gmul_ginv (a : Byte) {b : Byte} (hb : b ≠ 0) :
    gdiv (romOf p) a b = gmul (romOf p) a (ginv (romOf p) b) := by
  obtain ⟨j, hj, rfl⟩ := (eq_zero_or_alphaPow hp b).resolve_left hb
  rcases eq_zero_or_alphaPow hp a with rfl | ⟨i, hi, rfl⟩
  · rw [gmul_zero_left, gdiv, if_pos rfl]
  · rw [gdiv, if_neg (alphaPow_ne_zero hp i), toNat_index_alphaPow hp, toNat_index_alphaPow hp, alphaMod_romOf hp,
      ginv_alphaPow hp hj, gmul_alphaPow hp, Nat.mod_eq_of_lt hi, Nat.mod_eq_of_lt hj, Nat.add_sub_assoc hj.le]

end Primitive

/-- Settles O29: both products of two powers of alpha add their exponents. -/
theorem tableProductIsFieldProduct : Obligations.TableProductIsFieldProduct := fun _ a b hp => gmul_eq_fieldMul hp a b

/-- Settles O30, law by law. -/
theorem fieldLaws : Obligations.FieldLaws := fun _ a b c hp =>
  ⟨BitVec.xor_self, gmul_comm _ a b, gmul_assoc hp a b c, gmul_xor hp a b c, gmul_one_right hp a, gmul_zero_right _ a,
    gmul_ginv hp, gdiv_eq_gmul_ginv hp a, alpha_index hp a, index_alpha hp a⟩

end Sys2Proof.Machine
end

section
/-! PROOFS. The generator polynomial (O31): each factor `(x - r)` raises the degree by one and adds the root r. -/

namespace Sys2Proof.Machine

/-! ## The sum of polynomials -/

@[simp] theorem polyAdd_nil (f : List Byte) : polyAdd f [] = f := by cases f <;> rfl

theorem polyAdd_length (f g : List Byte) : (polyAdd f g).length = max f.length g.length := by
  induction f generalizing g with
  | nil => simp [polyAdd]
  | cons a f ih =>
    cases g with
    | nil => simp
    | cons b g => simp [polyAdd, ih]

theorem polyAdd_getD (f g : List Byte) (i : Nat) : (polyAdd f g).getD i 0 = f.getD i 0 ^^^ g.getD i 0 := by
  induction f generalizing g i with
  | nil => simp [polyAdd]
  | cons a f ih =>
    cases g with
    | nil => simp
    | cons b g =>
      cases i with
      | zero => rfl
      | succ i => exact ih g i

/-! ## The generator as its first factors -/

/-- The product of the first n factors `(x - r_i)` of the generator (40_gf_arith R102). -/
def rootProduct (rom : Rom) (n : Nat) : List Byte :=
  (List.range n).foldl (fun g i => polyAdd (polyShift g) (polyScale rom (rootOf rom i) g)) [1]

theorem generator_eq_rootProduct (rom : Rom) : generator rom = rootProduct rom 32 := rfl

theorem rootProduct_succ (rom : Rom) (n : Nat) :
    rootProduct rom (n + 1) =
      polyAdd (polyShift (rootProduct rom n)) (polyScale rom (rootOf rom n) (rootProduct rom n)) := by
  rw [rootProduct, List.range_succ, List.foldl_append]
  rfl

theorem rootProduct_length (rom : Rom) (n : Nat) : (rootProduct rom n).length = n + 1 := by
  induction n with
  | zero => rfl
  | succ n ih => simp [rootProduct_succ, polyAdd_length, polyShift, polyScale, ih]

theorem rootProduct_monic (rom : Rom) (n : Nat) : (rootProduct rom n).getD n 0 = 1 := by
  induction n with
  | zero => rfl
  | succ n ih =>
    have hscaled : (polyScale rom (rootOf rom n) (rootProduct rom n)).getD (n + 1) 0 = 0 :=
      List.getD_eq_default _ _ (by simp [polyScale, rootProduct_length])
    rw [rootProduct_succ, polyAdd_getD, hscaled]
    exact BitVec.xor_zero.trans ih

/-! ## The values of the generator -/

theorem polyEval_nil (rom : Rom) (z : Byte) : polyEval rom [] z = 0 := rfl

theorem polyEval_cons (rom : Rom) (c : Byte) (g : List Byte) (z : Byte) :
    polyEval rom (c :: g) z = gmul rom (polyEval rom g z) z ^^^ c := rfl

theorem polyEval_polyShift (rom : Rom) (g : List Byte) (z : Byte) :
    polyEval rom (polyShift g) z = gmul rom (polyEval rom g z) z := BitVec.xor_zero

section Primitive

variable {p : BitVec 9} (hp : isPrimitive p = true)
include hp

theorem polyEval_polyAdd (f g : List Byte) (z : Byte) :
    polyEval (romOf p) (polyAdd f g) z = polyEval (romOf p) f z ^^^ polyEval (romOf p) g z := by
  induction f generalizing g with
  | nil => exact BitVec.zero_xor.symm
  | cons a f ih =>
    cases g with
    | nil => exact BitVec.xor_zero.symm
    | cons b g =>
      rw [polyAdd, polyEval_cons, polyEval_cons, polyEval_cons, ih, xor_gmul hp]
      ac_rfl

theorem polyEval_polyScale (c : Byte) (g : List Byte) (z : Byte) :
    polyEval (romOf p) (polyScale (romOf p) c g) z = gmul (romOf p) c (polyEval (romOf p) g z) := by
  induction g with
  | nil => exact (gmul_zero_right _ c).symm
  | cons a g ih =>
    have hcons : polyScale (romOf p) c (a :: g) = gmul (romOf p) c a :: polyScale (romOf p) c g := rfl
    rw [hcons, polyEval_cons, polyEval_cons, ih, gmul_assoc hp, gmul_xor hp]

/-- A factor `(x - r)` multiplies the value at z by `z - r`. -/
theorem polyEval_rootProduct_succ (n : Nat) (z : Byte) :
    polyEval (romOf p) (rootProduct (romOf p) (n + 1)) z =
      gmul (romOf p) (polyEval (romOf p) (rootProduct (romOf p) n) z) (z ^^^ rootOf (romOf p) n) := by
  rw [rootProduct_succ, polyEval_polyAdd hp, polyEval_polyShift, polyEval_polyScale hp, gmul_comm _ (rootOf _ _),
    ← gmul_xor hp]

theorem polyEval_rootProduct_eq_zero (n : Nat) (z : Byte) :
    polyEval (romOf p) (rootProduct (romOf p) n) z = 0 ↔ ∃ i < n, z = rootOf (romOf p) i := by
  induction n with
  | zero =>
    have hone : polyEval (romOf p) (rootProduct (romOf p) 0) z = 1 := by
      show gmul (romOf p) 0 z ^^^ 1 = 1
      rw [gmul_zero_left]
      rfl
    simp [hone]
  | succ n ih =>
    have hroot : z ^^^ rootOf (romOf p) n = 0 ↔ z = rootOf (romOf p) n := BitVec.xor_eq_zero_iff
    rw [polyEval_rootProduct_succ hp, gmul_eq_zero hp, ih, hroot, Nat.exists_lt_succ_right]

theorem rootOf_eq_alphaPow (i : Nat) : rootOf (romOf p) i = alphaPow p (11 * (112 + i) % 255) :=
  (alphaMod_romOf hp _).trans (alphaPow_mod hp _).symm

end Primitive

/-- The generator is computed from the two tables alone, so it is that of the finished ROM. -/
theorem poly_buildRom (p : BitVec 9) :
    (buildRom p).poly = tabulate 33 fun i => (buildRom p).index ((generator (buildRom p)).getD i 0) := by
  have hgen : generator ⟨buildAlphaTo p, buildIndexOf p, Vector.replicate 33 0⟩ = generator (buildRom p) :=
    generator_congr rfl rfl
  rw [← hgen]
  simp only [buildRom, Rom.index]

theorem poly_romOf (p : BitVec 9) (i : Fin 33) :
    (romOf p).poly[i] = (romOf p).index ((generator (romOf p)).getD i.val 0) := by
  rw [romOf_eq_buildRom, poly_buildRom]
  exact getElem_tabulate 33 _ _ i.isLt

/-- Settles O31: the product of 32 factors `(x - r_i)` of degree one. -/
theorem generatorHasTheCodesRoots : Obligations.GeneratorHasTheCodesRoots := by
  intro p hp rom g
  refine ⟨rootProduct_length rom 32, rootProduct_monic rom 32, poly_romOf p, fun z => ?_⟩
  simp only [g, rom, generator_eq_rootProduct, polyEval_rootProduct_eq_zero hp, rootOf_eq_alphaPow hp]

end Sys2Proof.Machine
end

section
/-! PROOFS. The GF commands: what they compute (O26), evaluation by Horner's rule (O27), and their frame with that of
the register writes (O52). -/

namespace Sys2Proof.Machine

/-! ## On an idle block -/

/-- The opcodes of the GF commands are legal, with or without the validator, and use no argument (30_encoding R84). -/
theorem gfOpcode_mem_commandTable : ∀ (hasChk : Bool) (opc : Byte), 0x20 ≤ opc → opc ≤ 0x27 →
    (opc, 0xFFFFFF00) ∈ commandTable hasChk := by
  decide +kernel

theorem reservedBitsRejected_of_mem {s : State} (hr : s.ready) {opc : Byte} {zeroBits : Word}
    (h : (opc, zeroBits) ∈ commandTable s.cfg.hasChk) : reservedBitsRejected opc zeroBits s := by
  rintro w rfl hw
  obtain ⟨-, hlegal⟩ := commandWordsFallInThreeClasses s.cfg.hasChk w
  exact ((hlegal zeroBits h).1 hw).2 s rfl hr

theorem gfReservedBitsRejected {s : State} (hr : s.ready) {opc : Byte} (hlow : 0x20 ≤ opc) (hhigh : opc ≤ 0x27) :
    reservedBitsRejected opc 0xFFFFFF00 s :=
  reservedBitsRejected_of_mem hr (gfOpcode_mem_commandTable _ opc hlow hhigh)

theorem exec_gfHorner_of_ready {s : State} (hr : s.ready) :
    exec .gfHorner s =
      .next { s with gfR := gmul s.rom s.gfR s.gfB ^^^ s.gfA, irq := irqLevel s.ctrl s.status } :=
  unlessBusy_of_ready hr _ _

/-- Settles O26: on an idle block each meaning is its pseudocode, with its own check for a zero divisor. -/
theorem gfCommandsComputeTheirPseudocode : Obligations.GfCommandsComputeTheirPseudocode := by
  intro s hr result
  have runs (a : BusWrite) (r : Result) : unlessBusy a s r = r := unlessBusy_of_ready hr a r
  refine ⟨runs _ _, runs _ _, fun hb => (runs _ _).trans (if_neg hb), fun hb => (runs _ _).trans (if_pos hb),
    fun ha => (runs _ _).trans (if_neg ha), fun ha => (runs _ _).trans (if_pos ha), runs _ _, runs _ _, runs _ _,
    exec_gfHorner_of_ready hr, fun opc => gfReservedBitsRejected hr⟩

/-! ## Horner's rule (40_gf_arith R115) -/

/-- Horner's rule over the tables, from any accumulator: the accumulator is one more coefficient above the others. -/
theorem foldl_horner {p : BitVec 9} (hp : isPrimitive p = true) (z acc : Byte) (word : List Byte) :
    word.foldl (fun acc c => gmul (romOf p) acc z ^^^ c) acc =
      fieldMul p acc ((fieldMul p z)^[word.length] 1) ^^^ wordValue p z word := by
  induction word generalizing acc with
  | nil =>
    show acc = fieldMul p acc 1 ^^^ 0
    rw [← gmul_eq_fieldMul hp, gmul_one_right hp]
    exact BitVec.xor_zero.symm
  | cons c word ih =>
    rw [List.foldl_cons, ih, wordValue, List.length_cons, Function.iterate_succ_apply']
    simp only [← gmul_eq_fieldMul hp, xor_gmul hp, gmul_assoc hp, BitVec.xor_assoc]

theorem horner_eq_wordValue {p : BitVec 9} (hp : isPrimitive p = true) (z : Byte) (word : List Byte) :
    horner (romOf p) z word = wordValue p z word := by
  refine (foldl_horner hp z 0 word).trans ?_
  rw [fieldMul_zero_left]
  exact BitVec.zero_xor

/-- The loads and commands that evaluate a polynomial, one pair for each coefficient. -/
def hornerProgram (coefficients : List Byte) : List Instr :=
  coefficients.flatMap fun c => [.wrGfA (c.setWidth 32), .gfHorner]

theorem execAll_cons {i : Instr} {s t : State} (h : exec i s = .next t) (is : List Instr) :
    execAll (i :: is) s = execAll is t := by
  rw [execAll, h]

theorem exec_wrGfA_of_ready {s : State} (hr : s.ready) (data : Word) :
    exec (.wrGfA data) s =
      .next { s with gfA := byteOperand data, irq := irqLevel s.ctrl s.status } :=
  unlessBusy_of_ready hr _ _

theorem byteOperand_setWidth (c : Byte) : byteOperand (c.setWidth 32) = c := by
  apply BitVec.eq_of_toNat_eq
  have := c.isLt
  simp [byteOperand]
  omega

/-- One pair loads a coefficient and takes one step of Horner's rule. -/
theorem execAll_hornerProgram_cons {s : State} (hr : s.ready) (c : Byte) (cs : List Byte) :
    execAll (hornerProgram (c :: cs)) s =
      execAll (hornerProgram cs)
        { s with gfA := c, gfR := gmul s.rom s.gfR s.gfB ^^^ c, irq := irqLevel s.ctrl s.status } := by
  have hload := exec_wrGfA_of_ready hr (c.setWidth 32)
  rw [byteOperand_setWidth] at hload
  exact (execAll_cons hload _).trans (execAll_cons (exec_gfHorner_of_ready (s := { s with gfA := c, irq := _ }) hr) _)

theorem execAll_hornerProgram {s : State} (hr : s.ready) (coefficients : List Byte) :
    ∃ t, execAll (hornerProgram coefficients) s = .next t ∧
      t.gfR = coefficients.foldl (fun acc c => gmul s.rom acc s.gfB ^^^ c) s.gfR ∧
      t = { s with gfA := t.gfA, gfR := t.gfR, irq := t.irq } := by
  induction coefficients generalizing s with
  | nil => exact ⟨s, rfl, rfl, rfl⟩
  | cons c cs ih =>
    rw [execAll_hornerProgram_cons hr]
    exact ih (s := { s with gfA := c, gfR := gmul s.rom s.gfR s.gfB ^^^ c, irq := irqLevel s.ctrl s.status }) hr

/-- Settles O27: the program folds Horner's rule over the coefficients, and the fold from zero is the value of the
polynomial. -/
theorem hornerEvaluatesPolynomials : Obligations.HornerEvaluatesPolynomials := by
  intro s hr
  refine ⟨exec_gfHorner_of_ready hr, gfReservedBitsRejected hr (by decide) (by decide),
    fun coefficients hp hzero => ?_⟩
  obtain ⟨t, hrun, hvalue, hframe⟩ := execAll_hornerProgram hr coefficients
  refine ⟨t, hrun, ?_, hframe⟩
  rw [hvalue, hzero]
  exact horner_eq_wordValue hp s.gfB coefficients

/-! ## Frames -/

/-- A rejected write changes the error record and irq only (60_exceptions R240, R241). -/
theorem State.rejected_frame (s : State) (code : ErrCode) (info : Word) :
    s.rejected code info =
      { s with
        status := (s.rejected code info).status, errInfo := (s.rejected code info).errInfo,
        irq := (s.rejected code info).irq } ∧
    sameStatusButError s.status (s.rejected code info).status ∧ sameBuffer s (s.rejected code info) := by
  refine ⟨?_, s.capture_status code info, State.cwByte_congr (s.rejected_cw code info) (by simp [State.rejected])⟩
  unfold State.rejected State.capture
  split <;> rfl

@[simp] theorem State.rejected_ctrl (s : State) (code : ErrCode) (info : Word) :
    (s.rejected code info).ctrl = s.ctrl := by
  simp [State.rejected]

@[simp] theorem State.rejected_gfA (s : State) (code : ErrCode) (info : Word) :
    (s.rejected code info).gfA = s.gfA := by
  simp [State.rejected]

@[simp] theorem State.rejected_gfB (s : State) (code : ErrCode) (info : Word) :
    (s.rejected code info).gfB = s.gfB := by
  simp [State.rejected]

@[simp] theorem State.rejected_gfR (s : State) (code : ErrCode) (info : Word) :
    (s.rejected code info).gfR = s.gfR := by
  simp [State.rejected]

/-- The GF commands write GF_R only. -/
theorem effect_of_gfCommand {i : Instr}
    (hi : i ∈ [.gfAdd, .gfMul, .gfDiv, .gfInv, .gfExp, .gfLog, .gfMac, .gfHorner]) (s : State) :
    effect i s = { s with gfR := (effect i s).gfR } := by
  fin_cases hi <;> rfl

/-- Settles O52: an instruction rejects its write or has its effect, which is one register. -/
theorem frameOfRegisterInstructions : Obligations.FrameOfRegisterInstructions := by
  intro i s t h
  rcases exec_cases h with ⟨code, info, -, rfl⟩ | ⟨-, rfl⟩
  · obtain ⟨hframe, hkept⟩ := s.rejected_frame code info
    refine ⟨fun _ => ⟨?_, hkept⟩, fun data _ => ⟨?_, hkept⟩⟩
    · rw [State.rejected_gfR]
      exact hframe
    · simp only [State.rejected_gfA, State.rejected_gfB, State.rejected_gfR, State.rejected_ctrl, ite_self]
      exact hframe
  · refine ⟨fun hi => ?_, fun data hi => ?_⟩
    · rw [effect_of_gfCommand hi]
      exact ⟨rfl, rfl, fun _ => rfl⟩
    · simp only [List.mem_cons, List.not_mem_nil, or_false] at hi
      rcases hi with rfl | rfl | rfl | rfl <;> exact ⟨by simp [effect, State.settleIrq], rfl, fun _ => rfl⟩

end Sys2Proof.Machine
end

section
/-! PROOFS. The encoder step (41_encoder R141): its lanes (O36), and zero bytes on a zero accumulator (O38). -/

namespace Sys2Proof.Machine

theorem vectorGetD_of_lt {n i : Nat} (v : Vector Byte n) (h : i < n) : v.getD i 0 = v[i] := by simp [Vector.getD, h]

theorem vectorGetD_of_le {n i : Nat} (v : Vector Byte n) (h : n ≤ i) : v.getD i 0 = 0 := by simp [Vector.getD, h]

/-- The term that the feedback adds for an entry of `poly`: none when the feedback is the sentinel (41_encoder R141). -/
def feedbackTerm (rom : Rom) (feedback c : Byte) : Byte :=
  if feedback = Config.a0 then 0 else rom.alphaMod (feedback.toNat + c.toNat)

theorem feedbackTerm_sentinel (rom : Rom) (c : Byte) : feedbackTerm rom 255 c = 0 := if_pos rfl

/-- Lane j takes lane j + 1, of which there is none past lane 31, and the term of `poly[31 - j]`. -/
theorem encStep_getElem (rom : Rom) (parity : Vector Byte 32) (d : Byte) {j : Nat} (hj : j < 32) :
    (encStep rom parity d)[j] =
      parity.getD (j + 1) 0 ^^^ feedbackTerm rom (rom.index (d ^^^ parity[0])) (rom.poly.getD (31 - j) 0) := by
  have hlast (h : ¬ j < 31) : parity.getD (j + 1) 0 = 0 ∧ rom.poly.getD (31 - j) 0 = rom.poly[0] := by
    obtain rfl : j = 31 := by omega
    exact ⟨vectorGetD_of_le parity le_rfl, vectorGetD_of_lt rom.poly (by decide)⟩
  unfold encStep feedbackTerm
  dsimp only
  split <;> rw [shiftParity, getElem_tabulate] <;> split
  · exact BitVec.xor_zero.symm
  · next h => rw [(hlast h).1]; rfl
  · rw [feedbackLane, Nat.add_sub_add_right 31 1 j]
  · next h => rw [(hlast h).1, (hlast h).2]; exact BitVec.zero_xor.symm

/-- Settles O36: the two forms of a lane, before the last one and at it. -/
theorem encoderStepLanes : Obligations.EncoderStepLanes := by
  intro rom parity d feedback term
  refine ⟨fun j => ?_, ?_⟩
  · rw [encStep_getElem, vectorGetD_of_lt parity (by omega), vectorGetD_of_lt rom.poly (by omega)]
    rfl
  · rw [encStep_getElem, vectorGetD_of_le parity le_rfl, vectorGetD_of_lt rom.poly (by decide)]
    exact BitVec.zero_xor

theorem zeroParity_getD (j : Nat) : zeroParity.getD j 0 = 0 := by
  rcases Nat.lt_or_ge j 32 with hj | hj
  · exact (vectorGetD_of_lt zeroParity hj).trans (Vector.getElem_replicate hj)
  · exact vectorGetD_of_le zeroParity hj

/-- A feedback of zero is the sentinel, which adds nothing (40_gf_arith R101). -/
theorem encStep_zeroParity_zero (p : BitVec 9) : encStep (romOf p) zeroParity 0 = zeroParity := by
  have hfeedback : (romOf p).index ((0 : Byte) ^^^ zeroParity[0]) = 255 := index_zero p
  refine Vector.ext fun j hj => ?_
  rw [encStep_getElem, hfeedback, zeroParity_getD, feedbackTerm_sentinel, ← vectorGetD_of_lt zeroParity hj,
    zeroParity_getD]
  rfl

theorem parityOf_replicate_zero_append (p : BitVec 9) (pad : Nat) (message : List Byte) :
    parityOf (romOf p) (List.replicate pad 0 ++ message) = parityOf (romOf p) message := by
  induction pad with
  | zero => rfl
  | succ pad ih =>
    rw [List.replicate_succ, List.cons_append, parityOf, List.foldl_cons, encStep_zeroParity_zero]
    exact ih

/-- Settles O38, by the number of zero bytes. -/
theorem shorteningIsLeadingZeros : Obligations.ShorteningIsLeadingZeros := fun p pad message _ =>
  ⟨encStep_zeroParity_zero p, parityOf_replicate_zero_append p pad message⟩

end Sys2Proof.Machine
end

section
/-! PROOFS. A polynomial with as many roots in a row, `q^a, q^(a+1), …` for `q = alpha^PRIM`, as nonzero coefficients is
zero (the BCH bound, as 42_syndrome_decoder R164 uses it). The step from f(x) to `f(qx) - f(x)` loses one root and cancels
the constant term, and no other coefficient. -/

namespace Sys2Proof.Machine

/-- How many coefficients are nonzero. -/
def weight (f : List Byte) : Nat := f.countP (· != 0)

theorem weight_zero_cons (f : List Byte) : weight (0 :: f) = weight f := List.countP_cons_of_neg (by decide)

theorem weight_cons_of_ne_zero {c : Byte} (hc : c ≠ 0) (f : List Byte) : weight (c :: f) = weight f + 1 :=
  List.countP_cons_of_pos (by simpa using hc)

theorem weight_eq_zero_iff (f : List Byte) : weight f = 0 ↔ ∀ c ∈ f, c = 0 := by simp [weight, List.countP_eq_zero]

theorem weight_lt_length {f : List Byte} (h : 0 ∈ f) : weight f < f.length :=
  lt_of_le_of_ne List.countP_le_length fun hall => absurd (List.countP_eq_length.mp hall 0 h) (by decide)

theorem polyEval_of_weight_eq_zero (rom : Rom) {f : List Byte} (h : weight f = 0) (z : Byte) :
    polyEval rom f z = 0 := by
  rw [weight_eq_zero_iff] at h
  induction f with
  | nil => rfl
  | cons c f ih =>
    rw [polyEval_cons, ih fun b hb => h b (List.mem_cons_of_mem c hb), gmul_zero_left, h c List.mem_cons_self]
    exact BitVec.xor_self

/-- `q^e`, where `q = alpha^PRIM` takes each root of the generator to the next (40_gf_arith R102). -/
def rootPow (p : BitVec 9) (e : Nat) : Byte := alphaPow p (11 * e)

/-- The coefficients `(q^(e+k) - 1) f_k`, those of `q^e f(qx) - f(x)`. -/
def scaleDifference (p : BitVec 9) : Nat → List Byte → List Byte
  | _, [] => []
  | e, c :: f => gmul (romOf p) (rootPow p e ^^^ 1) c :: scaleDifference p (e + 1) f

theorem scaleDifference_length (p : BitVec 9) (e : Nat) (f : List Byte) :
    (scaleDifference p e f).length = f.length := by
  induction f generalizing e with
  | nil => rfl
  | cons c f ih => exact congrArg (· + 1) (ih (e + 1))

/-- `f(qx) - f(x)` is a multiple of x. -/
theorem scaleDifference_zero_cons (c : Byte) (f : List Byte) :
    scaleDifference p 0 (c :: f) = 0 :: scaleDifference p 1 f := by
  have hfactor : rootPow p 0 ^^^ 1 = 0 := BitVec.xor_self
  rw [scaleDifference, hfactor, gmul_zero_left]

section Primitive

variable {p : BitVec 9} (hp : isPrimitive p = true)
include hp

theorem rootPow_ne_zero (e : Nat) : rootPow p e ≠ 0 := alphaPow_ne_zero hp (11 * e)

/-- q has order 255, as 11 and 255 have no common factor. -/
theorem rootPow_ne_one {e : Nat} (hpos : 0 < e) (hlt : e < 255) : rootPow p e ≠ 1 := by
  intro h
  have hexp : 11 * e % 255 = 0 := by
    refine alphaPow_injOn hp (Nat.mod_lt _ (by decide)) (by decide : 0 < 255) ?_
    rw [alphaPow_mod hp]
    exact h
  omega

theorem gmul_rootPow (d e : Nat) : gmul (romOf p) (rootPow p d) (rootPow p e) = rootPow p (d + e) := by
  rw [rootPow, rootPow, gmul_alphaPow hp, ← Nat.mul_add]
  rfl

theorem rootOf_eq_rootPow (i : Nat) : rootOf (romOf p) i = rootPow p (112 + i) :=
  (rootOf_eq_alphaPow hp i).trans (alphaPow_mod hp _)

/-- No factor `q^(e+k) - 1` is zero. -/
theorem weight_scaleDifference {e : Nat} {f : List Byte} (hpos : 0 < e) (hlt : e + f.length ≤ 255) :
    weight (scaleDifference p e f) = weight f := by
  induction f generalizing e with
  | nil => rfl
  | cons c f ih =>
    rw [List.length_cons] at hlt
    have htail : weight (scaleDifference p (e + 1) f) = weight f := ih e.succ_pos (by omega)
    have hfactor : rootPow p e ^^^ 1 ≠ 0 := mt BitVec.xor_eq_zero_iff.mp (rootPow_ne_one hp hpos (by omega))
    rw [scaleDifference]
    by_cases hc : c = 0
    · rw [hc, gmul_zero_right, weight_zero_cons, weight_zero_cons, htail]
    · have hterm : gmul (romOf p) (rootPow p e ^^^ 1) c ≠ 0 := mt (gmul_eq_zero hp _ c).mp (not_or.mpr ⟨hfactor, hc⟩)
      rw [weight_cons_of_ne_zero hterm, weight_cons_of_ne_zero hc, htail]

theorem gmul_left_comm (a b c : Byte) :
    gmul (romOf p) a (gmul (romOf p) b c) = gmul (romOf p) b (gmul (romOf p) a c) := by
  rw [← gmul_assoc hp, gmul_comm _ a b, gmul_assoc hp]

theorem polyEval_scaleDifference (e : Nat) (f : List Byte) (z : Byte) :
    polyEval (romOf p) (scaleDifference p e f) z =
      gmul (romOf p) (rootPow p e) (polyEval (romOf p) f (gmul (romOf p) (rootPow p 1) z)) ^^^
        polyEval (romOf p) f z := by
  induction f generalizing e with
  | nil => rw [scaleDifference, polyEval_nil, polyEval_nil, gmul_zero_right]; exact BitVec.xor_self.symm
  | cons c f ih =>
    rw [scaleDifference, polyEval_cons, ih, polyEval_cons, polyEval_cons, ← gmul_rootPow hp]
    simp only [xor_gmul hp, gmul_xor hp, gmul_assoc hp, gmul_one_left hp]
    rw [gmul_left_comm hp (rootPow p 1)]
    ac_rfl

theorem polyEval_of_zero_cons {f : List Byte} {z : Byte} (hz : z ≠ 0) (h : polyEval (romOf p) (0 :: f) z = 0) :
    polyEval (romOf p) f z = 0 := by
  rw [polyEval_cons] at h
  exact ((gmul_eq_zero hp _ z).mp (BitVec.xor_eq_zero_iff.mp h)).resolve_right hz

/-- A polynomial of at most n nonzero coefficients, of degree below 255, with n roots in a row is zero. -/
theorem weight_eq_zero_of_roots {f : List Byte} {n a : Nat} (hlen : f.length ≤ 255) (hweight : weight f ≤ n)
    (hroots : ∀ i < n, polyEval (romOf p) f (rootPow p (a + i)) = 0) : weight f = 0 := by
  induction hl : f.length generalizing f n with
  | zero => rw [List.length_eq_zero_iff.mp hl]; rfl
  | succ l ih =>
    obtain ⟨c, f, rfl⟩ := List.exists_cons_of_length_eq_add_one hl
    have hl : f.length = l := Nat.succ.inj hl
    rw [List.length_cons] at hlen
    by_cases hc : c = 0
    · rw [hc, weight_zero_cons] at hweight ⊢
      rw [hc] at hroots
      exact ih (by omega) hweight (fun i hi => polyEval_of_zero_cons hp (rootPow_ne_zero hp _) (hroots i hi)) hl
    · rw [weight_cons_of_ne_zero hc] at hweight
      obtain ⟨n, rfl⟩ := Nat.exists_eq_add_one_of_ne_zero (by omega : n ≠ 0)
      have hdiff (i : Nat) (hi : i < n) : polyEval (romOf p) (scaleDifference p 1 f) (rootPow p (a + i)) = 0 := by
        refine polyEval_of_zero_cons hp (rootPow_ne_zero hp _) ?_
        rw [← scaleDifference_zero_cons, polyEval_scaleDifference hp, gmul_rootPow hp, Nat.add_comm 1,
          Nat.add_assoc, hroots (i + 1) (by omega), hroots i (by omega), gmul_zero_right]
        exact BitVec.xor_self
      have htail : weight f = 0 := by
        have hsame := weight_scaleDifference hp (f := f) one_pos (by omega)
        rw [← hsame]
        exact ih (by rw [scaleDifference_length]; omega) (by omega) hdiff (by rw [scaleDifference_length, hl])
      -- what is left is the constant term
      have hconst := hroots 0 n.succ_pos
      rw [polyEval_cons, polyEval_of_weight_eq_zero _ htail, gmul_zero_left] at hconst
      exact absurd (BitVec.zero_xor.symm.trans hconst) hc

end Primitive

end Sys2Proof.Machine
end

section
/-! PROOFS. A message followed by its parity is a codeword (O40): the accumulator is the remainder of `m(x) x^32` modulo
g(x), so at each root r of g it has the value of `m(r) r^32`. -/

namespace Sys2Proof.Machine

/-! ## The accumulator as a polynomial -/

/-- The accumulator as a polynomial, the constant term first: lane j is the coefficient of `x^(31-j)` (41_encoder
R142). -/
def parityPoly (parity : Vector Byte 32) : List Byte := parity.toList.reverse

theorem parityPoly_length (parity : Vector Byte 32) : (parityPoly parity).length = 32 := by simp [parityPoly]

theorem parityPoly_getD (parity : Vector Byte 32) {i : Nat} (hi : i < 32) :
    (parityPoly parity).getD i 0 = parity[31 - i] := by
  rw [List.getD_eq_getElem _ _ (by rwa [parityPoly_length])]
  simp [parityPoly]

theorem polyShift_parityPoly_getD (parity : Vector Byte 32) {i : Nat} (hi : i ≤ 32) :
    (polyShift (parityPoly parity)).getD i 0 = parity.getD (32 - i) 0 := by
  cases i with
  | zero => exact (vectorGetD_of_le parity le_rfl).symm
  | succ i =>
    rw [Nat.add_sub_add_right 31 1 i, vectorGetD_of_lt parity (by omega), ← parityPoly_getD parity hi]
    rfl

theorem polyScale_getD (rom : Rom) (a : Byte) (f : List Byte) (i : Nat) :
    (polyScale rom a f).getD i 0 = gmul rom a (f.getD i 0) := by
  conv_lhs => rw [← gmul_zero_right rom a]
  exact List.getD_map ..

theorem polyEval_append_zero (rom : Rom) (f : List Byte) (z : Byte) :
    polyEval rom (f ++ [0]) z = polyEval rom f z := by
  rw [polyEval, List.foldr_append, List.foldr_cons, List.foldr_nil, gmul_zero_left]
  rfl

/-- Horner's rule over a word is that over the polynomial of its reversed symbols. -/
theorem polyEval_reverse (rom : Rom) (word : List Byte) (z : Byte) :
    polyEval rom word.reverse z = horner rom z word := List.foldr_reverse ..

theorem horner_append (rom : Rom) (z : Byte) (word : List Byte) (c : Byte) :
    horner rom z (word ++ [c]) = gmul rom (horner rom z word) z ^^^ c := List.foldl_concat ..

theorem parityOf_append (rom : Rom) (message : List Byte) (d : Byte) :
    parityOf rom (message ++ [d]) = encStep rom (parityOf rom message) d := List.foldl_concat ..

section Primitive

variable {p : BitVec 9} (hp : isPrimitive p = true)
include hp

/-- `d x^n` at z. -/
theorem polyEval_monomial (n : Nat) (d z : Byte) :
    polyEval (romOf p) (List.replicate n 0 ++ [d]) z = fieldMul p d ((fieldMul p z)^[n] 1) := by
  induction n with
  | zero =>
    show gmul (romOf p) 0 z ^^^ d = fieldMul p d 1
    rw [gmul_zero_left, ← gmul_eq_fieldMul hp, gmul_one_right hp]
    exact BitVec.zero_xor
  | succ n ih =>
    rw [List.replicate_succ, List.cons_append, polyEval_cons, ih, Function.iterate_succ_apply']
    simp only [← gmul_eq_fieldMul hp]
    rw [gmul_assoc hp, gmul_comm _ z]
    exact BitVec.xor_zero

/-! ## The feedback is a product -/

/-- A generator with a zero coefficient would have as many roots in a row as nonzero coefficients. -/
theorem generator_getD_ne_zero {i : Nat} (hi : i < 33) : (generator (romOf p)).getD i 0 ≠ 0 := by
  have hlen : (generator (romOf p)).length = 33 := rootProduct_length _ 32
  have hmem {j : Nat} (hj : j < 33) : (generator (romOf p)).getD j 0 ∈ generator (romOf p) := by
    rw [List.getD_eq_getElem _ _ (by omega)]
    exact List.getElem_mem _
  intro hzero
  have hweight : weight (generator (romOf p)) < 33 := (weight_lt_length (hzero ▸ hmem hi)).trans_eq hlen
  have hroots : ∀ i < 32, polyEval (romOf p) (generator (romOf p)) (rootPow p (112 + i)) = 0 := fun i hi =>
    (polyEval_rootProduct_eq_zero hp 32 _).mpr ⟨i, hi, (rootOf_eq_rootPow hp i).symm⟩
  have hnone := (weight_eq_zero_iff _).mp (weight_eq_zero_of_roots hp (by omega) (by omega) hroots)
  have hmonic : (generator (romOf p)).getD 32 0 = 1 := rootProduct_monic _ 32
  exact absurd (hmonic.symm.trans (hnone _ (hmem (by decide)))) (by decide)

theorem index_eq_sentinel_iff (a : Byte) : (romOf p).index a = 255 ↔ a = 0 := by
  refine ⟨fun h => ?_, fun h => h ▸ index_zero p⟩
  rw [← alpha_index hp a, h, alpha_sentinel]

/-- The term of a nonzero coefficient is its product with the symbol fed back. -/
theorem feedbackTerm_index (a : Byte) {c : Byte} (hc : c ≠ 0) :
    feedbackTerm (romOf p) ((romOf p).index a) ((romOf p).index c) = gmul (romOf p) a c := by
  by_cases ha : a = 0
  · rw [ha, index_zero, feedbackTerm_sentinel, gmul_zero_left]
  · rw [feedbackTerm, if_neg (mt (index_eq_sentinel_iff hp a).mp ha), gmul, if_neg (not_or.mpr ⟨ha, hc⟩)]

/-- Lane j takes lane j + 1 and the symbol fed back times `g_(31-j)`. -/
theorem encStep_getElem_gmul (parity : Vector Byte 32) (d : Byte) {j : Nat} (hj : j < 32) :
    (encStep (romOf p) parity d)[j] =
      parity.getD (j + 1) 0 ^^^ gmul (romOf p) (d ^^^ parity[0]) ((generator (romOf p)).getD (31 - j) 0) := by
  have hpoly : (romOf p).poly.getD (31 - j) 0 = (romOf p).index ((generator (romOf p)).getD (31 - j) 0) :=
    (vectorGetD_of_lt _ (by omega)).trans (poly_romOf p ⟨31 - j, by omega⟩)
  rw [encStep_getElem _ _ _ hj, hpoly, feedbackTerm_index hp _ (generator_getD_ne_zero hp (by omega))]

/-! ## The remainder -/

/-- One encoder step: `x P(x) + (d + P_0) g(x) + d x^32` is the next accumulator, its coefficient of `x^32` zero. -/
theorem parityPoly_encStep (parity : Vector Byte 32) (d : Byte) :
    polyAdd (polyAdd (polyShift (parityPoly parity))
        (polyScale (romOf p) (d ^^^ parity[0]) (generator (romOf p)))) (List.replicate 32 0 ++ [d]) =
      parityPoly (encStep (romOf p) parity d) ++ [0] := by
  have hlen : (generator (romOf p)).length = 33 := rootProduct_length _ 32
  refine List.ext_getElem (by simp [polyAdd_length, polyShift, polyScale, parityPoly_length, hlen]) fun i h h' => ?_
  rw [← List.getD_eq_getElem _ 0 h, ← List.getD_eq_getElem _ 0 h', polyAdd_getD, polyAdd_getD, polyScale_getD]
  rw [List.length_append, parityPoly_length, List.length_singleton] at h'
  rw [polyShift_parityPoly_getD _ (by omega)]
  rcases Nat.lt_succ_iff_lt_or_eq.mp h' with hi | rfl
  · rw [List.getD_append _ _ _ _ (by simpa using hi), List.getD_append _ _ _ _ (by rwa [parityPoly_length]),
      parityPoly_getD _ hi, encStep_getElem_gmul hp _ _ (by omega), List.getD_replicate _ hi,
      show 31 - i + 1 = 32 - i by omega, show 31 - (31 - i) = i by omega]
    exact BitVec.xor_zero
  · have hmonic : (generator (romOf p)).getD 32 0 = 1 := rootProduct_monic _ 32
    rw [List.getD_append_right _ _ _ _ (by simp), List.getD_append_right _ _ _ _ (parityPoly_length _).le,
      parityPoly_length, List.length_replicate, Nat.sub_self, vectorGetD_of_lt parity (by decide), hmonic,
      gmul_one_right hp]
    calc parity[0] ^^^ (d ^^^ parity[0]) ^^^ d = (d ^^^ parity[0]) ^^^ (d ^^^ parity[0]) := by ac_rfl
      _ = 0 := BitVec.xor_self

/-- At a root z of g the parity of m(x) has the value of `m(z) z^32` (41_encoder R142). -/
theorem polyEval_parityOf {z : Byte} (hz : polyEval (romOf p) (generator (romOf p)) z = 0) (message : List Byte) :
    polyEval (romOf p) (parityPoly (parityOf (romOf p) message)) z =
      fieldMul p (horner (romOf p) z message) ((fieldMul p z)^[32] 1) := by
  induction message using List.reverseRecOn with
  | nil =>
    have hnone : weight (parityPoly zeroParity) = 0 := by decide
    exact (polyEval_of_weight_eq_zero _ hnone z).trans (fieldMul_zero_left p _).symm
  | append_singleton message d ih =>
    rw [parityOf_append, ← polyEval_append_zero, ← parityPoly_encStep hp, polyEval_polyAdd hp, polyEval_polyAdd hp,
      polyEval_polyShift, polyEval_polyScale hp, hz, gmul_zero_right, polyEval_monomial hp, ih, horner_append]
    simp only [← gmul_eq_fieldMul hp, xor_gmul hp, gmul_assoc hp]
    rw [gmul_comm _ z]
    exact congrArg (· ^^^ _) BitVec.xor_zero

theorem horner_append_parity {z : Byte} (hz : polyEval (romOf p) (generator (romOf p)) z = 0) (message : List Byte) :
    horner (romOf p) z (message ++ (parityOf (romOf p) message).toList) = 0 := by
  have hparity := polyEval_parityOf hp hz message
  rw [parityPoly, polyEval_reverse, horner_eq_wordValue hp] at hparity
  rw [horner, List.foldl_append, foldl_horner hp, hparity, Vector.length_toList]
  exact BitVec.xor_self

end Primitive

/-- Settles O40: each of the 32 roots r_i is a root of g. -/
theorem encodedMessagesAreCodewords : Obligations.EncodedMessagesAreCodewords := by
  intro p pad message hp hpad hlen
  refine ⟨?_, fun i hi => horner_append_parity hp ?_ message⟩
  · rw [List.length_append, Vector.length_toList]
    omega
  · exact (polyEval_rootProduct_eq_zero hp 32 _).mpr ⟨i, hi, rfl⟩

end Sys2Proof.Machine
end

section
/-! PROOFS. The encoder and job commands: what they do on an idle block (O32 to O35), and their frame (O53). -/

namespace Sys2Proof.Machine

/-! ## On an idle block -/

/-- The opcodes of the commands with a pad are legal, with or without the validator, and use no other argument
(30_encoding R84). -/
theorem padOpcode_mem_commandTable : ∀ (hasChk : Bool), ∀ opc ∈ [(0x10 : Byte), 0x12, 0x30, 0x31],
    (opc, 0xFFFF0000) ∈ commandTable hasChk := by
  decide

theorem encFinishOpcode_mem_commandTable : ∀ hasChk : Bool, (0x11, 0xFFFFFF00) ∈ commandTable hasChk := by decide

theorem padReservedBitsRejected {s : State} (hr : s.ready) {opc : Byte} (h : opc ∈ [(0x10 : Byte), 0x12, 0x30, 0x31]) :
    reservedBitsRejected opc 0xFFFF0000 s :=
  reservedBitsRejected_of_mem hr (padOpcode_mem_commandTable _ opc h)

section Pad

variable {s : State} {pad : Byte} (hr : s.ready) (a : BusWrite) (r r' : Result)
include hr

/-- A pad up to 223 passes its check (41_encoder R140). -/
theorem unlessBusy_of_legalPad (h : pad.toNat ≤ 223) : unlessBusy a s (if padInRange pad then r else r') = r :=
  (unlessBusy_of_ready hr a _).trans (if_pos ((padInRange_iff pad).mpr h))

theorem unlessBusy_of_badPad (h : pad.toNat > 223) : unlessBusy a s (if padInRange pad then r else r') = r' :=
  (unlessBusy_of_ready hr a _).trans (if_neg (mt (padInRange_iff pad).mp (Nat.not_le_of_gt h)))

end Pad

/-- Settles O32: the check of the pad, then the whole next state. -/
theorem encInitOpensEncode : Obligations.EncInitOpensEncode := fun _ _ hr =>
  ⟨unlessBusy_of_legalPad hr _ _ _, unlessBusy_of_badPad hr _ _ _, padReservedBitsRejected hr (by decide)⟩

/-- Settles O33: the two checks in order, then one encoder step. -/
theorem encDataFeedsOneByte : Obligations.EncDataFeedsOneByte := by
  intro data s hr
  have hrun : exec (.encData data) s = _ := unlessBusy_of_ready hr _ _
  rw [hrun, messageLength_eq, byteOperand_eq]
  refine ⟨fun hclosed => if_pos hclosed, fun hopen hfull => ?_, fun hopen hroom => ?_⟩
  · exact (if_neg (ne_false_of_eq_true hopen)).trans (if_pos hfull)
  · exact (if_neg (ne_false_of_eq_true hopen)).trans (if_neg hroom)

/-- Settles O34: the two checks in order, then the encode closes. -/
theorem encFinishClosesEncode : Obligations.EncFinishClosesEncode := by
  intro s hr st
  have hrun : exec .encFinish s = _ := unlessBusy_of_ready hr _ _
  rw [hrun, messageLength_eq]
  refine ⟨fun hclosed => if_pos hclosed, fun hopen hpart => ?_, fun hopen hfull => ?_,
    reservedBitsRejected_of_mem hr (encFinishOpcode_mem_commandTable _)⟩
  · exact (if_neg (ne_false_of_eq_true hopen)).trans (if_pos hpart)
  · exact (if_neg (ne_false_of_eq_true hopen)).trans (if_neg (not_not.mpr hfull))

/-- Settles O35: the check of the pad, then the job with its flags. -/
theorem jobsAreAccepted : Obligations.JobsAreAccepted := by
  intro pad s hr enc syn dec
  refine ⟨fun h => ?_, fun h => ?_, padReservedBitsRejected hr (by decide), padReservedBitsRejected hr (by decide),
    padReservedBitsRejected hr (by decide)⟩
  · have accepted (a : BusWrite) (r r' : Result) := unlessBusy_of_legalPad hr a r r' h
    exact ⟨accepted _ _ _, accepted _ _ _, accepted _ _ _⟩
  · have bad (a : BusWrite) (r r' : Result) := unlessBusy_of_badPad hr a r r' h
    exact ⟨bad _ _ _, bad _ _ _, bad _ _ _⟩

/-! ## Frames -/

@[simp] theorem State.rejected_parity (s : State) (code : ErrCode) (info : Word) :
    (s.rejected code info).parity = s.parity := by
  simp [State.rejected]

@[simp] theorem State.rejected_encPad (s : State) (code : ErrCode) (info : Word) :
    (s.rejected code info).encPad = s.encPad := by
  simp [State.rejected]

@[simp] theorem State.rejected_encCount (s : State) (code : ErrCode) (info : Word) :
    (s.rejected code info).encCount = s.encCount := by
  simp [State.rejected]

@[simp] theorem State.rejected_job (s : State) (code : ErrCode) (info : Word) :
    (s.rejected code info).job = s.job := by
  simp [State.rejected]

/-- Settles O53: an instruction rejects its write, which keeps every flag but the error record, or has its effect. -/
theorem frameOfEncoderAndJobInstructions : Obligations.FrameOfEncoderAndJobInstructions := by
  intro i s t h
  rcases exec_cases h with ⟨code, info, -, rfl⟩ | ⟨-, rfl⟩
  · obtain ⟨hframe, hstatus, hbuffer⟩ := s.rejected_frame code info
    refine ⟨fun pad data _ => ⟨?_, ?_, hbuffer⟩, fun pad _ => ⟨?_, ?_, hbuffer⟩⟩
    · simp only [State.rejected_parity, State.rejected_encPad, State.rejected_encCount, ite_self]
      exact hframe
    · rw [hstatus]
      simp only [ite_self]
    · rw [State.rejected_job]
      exact hframe
    · rw [hstatus]
      simp only [ite_self]
  · refine ⟨fun pad data hi => ?_, fun pad hi => ?_⟩
    · simp only [List.mem_cons, List.not_mem_nil, or_false] at hi
      rcases hi with rfl | rfl | rfl <;> exact ⟨by simp [effect, State.settleIrq], by simp [effect], fun _ => rfl⟩
    · simp only [List.mem_cons, List.not_mem_nil, or_false] at hi
      rcases hi with rfl | rfl | rfl <;>
        exact ⟨by simp [effect, State.settleIrq, State.startJob], by simp [effect], fun _ => rfl⟩

end Sys2Proof.Machine
end

section
/-! PROOFS. Whole encodes: the completion of ENC_BLOCK (O37), and the streaming encode from ENC_INIT to ENC_FINISH
(O39). -/

namespace Sys2Proof.Machine

/-! ## ENC_BLOCK -/

theorem runTurn_engine_of_encBlock {s : State} {pad : Byte} (h : s.job = some (.encBlock pad)) :
    runTurn .engine s = .next (completeEncBlock pad s).settleIrq := by
  show engineTurn s = _
  rw [engineTurn, engineStep, h]
  rfl

theorem messageBytes_eq (s : State) (pad : Byte) :
    s.messageBytes pad = (List.range (223 - pad.toNat)).map fun m => s.cwByte (pad.toNat + m) := by
  rw [State.messageBytes, messageLength_eq, List.range'_eq_map_range, List.map_map]
  rfl

/-- Among the parity cells CW[223 + j] has PARITY[j] (41_encoder R148). -/
theorem mem_parityCells (parity : Vector Byte 32) (j : Fin 32) : (223 + j.val, parity[j]) ∈ parityCells parity := by
  refine List.mem_iff_getElem.mpr ⟨j, by simp [parityCells], ?_⟩
  simp [parityCells]

theorem parityCells_nodup (parity : Vector Byte 32) : ((parityCells parity).map Prod.fst).Nodup :=
  (List.nodup_range' (step := 1)).sublist (map_fst_zip_sublist _ _)

theorem parityCells_fst_ge (parity : Vector Byte 32) : ∀ kv ∈ parityCells parity, 223 ≤ kv.1 := fun _ hkv =>
  (List.mem_range'_1.mp (List.of_mem_zip hkv).1).1

theorem State.cwByte_of_read {s : State} {k : Nat} {v : Byte} (h : s.cw.read k = some v) : s.cwByte k = v := by
  rw [State.cwByte, h]
  rfl

theorem State.cwByte_congr_read {s t : State} {k : Nat} (h : t.cw.read k = s.cw.read k)
    (hp : t.powerUps = s.powerUps) : t.cwByte k = s.cwByte k := by
  rw [State.cwByte, State.cwByte, h, hp]

/-- Settles O37: the bytes written are read back, and every other index is outside 223 to 254. -/
theorem encBlockCompletion : Obligations.EncBlockCompletion := by
  intro pad s hjob _
  rw [← messageBytes_eq]
  intro message parity st
  refine ⟨_, runTurn_engine_of_encBlock hjob, rfl, fun j => ?_, fun k hk => ?_⟩
  · have hread : (s.cw.writeAll (parityCells parity)).read (223 + j.val) = some parity[j] :=
      Memory.read_writeAll_mem _ (parityCells_nodup parity) (mem_parityCells parity j)
    exact State.cwByte_of_read hread
  · have hread : (s.cw.writeAll (parityCells parity)).read k = s.cw.read k :=
      Memory.read_writeAll_other _ _ fun kv hkv he => by
        have := parityCells_fst_ge _ kv hkv
        have : kv.1 < 255 := parityCells_fst_lt _ kv hkv
        omega
    exact State.cwByte_congr_read hread rfl

/-! ## The streaming encode -/

/-- The writes that feed a message, one for each byte. -/
def feedMessage (message : List Byte) : List Instr := message.map fun d => .encData (d.setWidth 32)

theorem exec_encData_of_open {s : State} (hr : s.ready) (hopen : s.status.encActive = true) (d : Byte)
    (hroom : s.encCount.toNat < 223 - s.encPad.toNat) :
    exec (.encData (d.setWidth 32)) s =
      .next { s with parity := encStep s.rom s.parity d, encCount := s.encCount + 1 }.settleIrq := by
  obtain ⟨-, -, hfeeds⟩ := encDataFeedsOneByte (d.setWidth 32) s hr
  rw [← byteOperand_eq, byteOperand_setWidth] at hfeeds
  exact hfeeds hopen hroom.ne

/-- An open encode with room for the message takes one encoder step for each byte. -/
theorem execAll_feedMessage {s : State} (hr : s.ready) (hopen : s.status.encActive = true) (message : List Byte)
    (hroom : s.encCount.toNat + message.length ≤ 223 - s.encPad.toNat) (is : List Instr) :
    execAll (feedMessage message ++ is) s.settleIrq =
      execAll is { s with
        parity := message.foldl (encStep s.rom) s.parity,
        encCount := s.encCount + BitVec.ofNat 8 message.length }.settleIrq := by
  induction message generalizing s with
  | nil => rw [List.length_nil, BitVec.add_zero]; rfl
  | cons d message ih =>
    rw [List.length_cons] at hroom
    have hcount : (s.encCount + 1).toNat = s.encCount.toNat + 1 := by bv_omega
    have hlen : s.encCount + BitVec.ofNat 8 (message.length + 1) = s.encCount + 1 + BitVec.ofNat 8 message.length := by
      bv_omega
    have hfeed := exec_encData_of_open (s := s.settleIrq) hr hopen d
      (show s.encCount.toNat < 223 - s.encPad.toNat by omega)
    have hrest := ih (s := { s with parity := encStep s.rom s.parity d, encCount := s.encCount + 1 }) hr hopen
      (show (s.encCount + 1).toNat + message.length ≤ 223 - s.encPad.toNat by omega)
    rw [List.length_cons, hlen]
    exact (execAll_cons hfeed _).trans hrest

/-- Settles O39: the encode opens, takes the message, and closes with as many bytes counted as the pad asks for. -/
theorem streamingEncodeDependsOnMessageOnly : Obligations.StreamingEncodeDependsOnMessageOnly := by
  intro pad message s hr hpad hlen st
  have hcount : (BitVec.ofNat 8 (223 - pad.toNat)).toNat = 223 - pad.toNat := by
    rw [BitVec.toNat_ofNat]
    omega
  have hopens : exec (.encInit pad) s = .next (effect (.encInit pad) s).settleIrq :=
    unlessBusy_of_legalPad hr _ _ _ hpad
  have hfeeds := execAll_feedMessage (s := effect (.encInit pad) s) hr rfl message
    (show 0 + message.length ≤ 223 - pad.toNat by omega) [.encFinish]
  have hcounted : (effect (.encInit pad) s).encCount + BitVec.ofNat 8 message.length =
      BitVec.ofNat 8 (223 - pad.toNat) := by
    rw [hlen]
    exact BitVec.zero_add _
  rw [hcounted] at hfeeds
  obtain ⟨-, -, hcloses, -⟩ := encFinishClosesEncode { effect (.encInit pad) s with
    parity := message.foldl (encStep s.rom) zeroParity, encCount := BitVec.ofNat 8 (223 - pad.toNat) }.settleIrq hr
  exact (execAll_cons hopens _).trans (hfeeds.trans (execAll_cons (hcloses rfl hcount) []))

end Sys2Proof.Machine
end

section
/-! PROOFS. The syndrome calculator and the corrector at their completion (O42, O43), with the syndromes as values of
the received polynomial (O41) and the check that the corrector makes on its answer (O44). -/

namespace Sys2Proof.Machine

/-! ## Syndromes -/

/-- Settles O41: the fold of Horner's rule at the root, which the tables give as a power of alpha. -/
theorem syndromesArePolynomialValues : Obligations.SyndromesArePolynomialValues := by
  intro p word i hp
  rw [← rootOf_eq_alphaPow hp]
  exact horner_eq_wordValue hp _ word

theorem allZero_syndromes_iff (rom : Rom) (word : List Byte) :
    allZero (syndromes rom word) = true ↔ ∀ i < 32, syndrome rom word i = 0 := by
  refine (allZero_iff _).trans ⟨fun h i hi => ?_, fun h i => ?_⟩
  · exact (getElem_syndromes rom word i hi).symm.trans (h ⟨i, hi⟩)
  · exact (getElem_syndromes rom word i i.isLt).trans (h i i.isLt)

theorem receivedWord_eq (s : State) (pad : Byte) :
    s.receivedWord pad = (List.range (255 - pad.toNat)).map fun m => s.cwByte (pad.toNat + m) := by
  rw [State.receivedWord, List.range'_eq_map_range, List.map_map]
  rfl

theorem receivedWord_getD (s : State) {pad : Byte} {k : Nat} (hlow : pad.toNat ≤ k) (hhigh : k < 255) :
    (s.receivedWord pad).getD (k - pad.toNat) 0 = s.cwByte k := by
  rw [receivedWord_eq, List.getD_eq_getElem _ _ (by simp; omega), List.getElem_map, List.getElem_range,
    Nat.add_sub_cancel' hlow]

/-! ## SYN_CALC -/

theorem runTurn_engine_of_synCalc {s : State} {pad : Byte} (h : s.job = some (.synCalc pad)) :
    runTurn .engine s = .next (completeSynCalc pad s).settleIrq := by
  show engineTurn s = _
  rw [engineTurn, engineStep, h]
  rfl

/-- Settles O42: the completion stores the syndromes and whether all are zero. -/
theorem synCalcCompletion : Obligations.SynCalcCompletion := by
  intro pad s hjob
  rw [← receivedWord_eq]
  intro word
  exact ⟨_, runTurn_engine_of_synCalc hjob, fun i => getElem_syndromes s.rom word i i.isLt,
    allZero_syndromes_iff s.rom word, rfl⟩

/-! ## What the corrector answers -/

theorem applyErrors_length (pad : Nat) (word : List Byte) (errors : List (Nat × Byte)) :
    (applyErrors pad word errors).length = word.length := by
  unfold applyErrors
  induction errors generalizing word with
  | nil => rfl
  | cons ky errors ih => exact (ih _).trans (List.length_modify ..)

theorem decodeWord_length {rom : Rom} {pad : Nat} {word c : List Byte} (h : decodeWord rom pad word = some c) :
    c.length = word.length := by
  unfold decodeWord at h
  split at h
  · cases h
  · next errors _ =>
    dsimp only at h
    split at h
    · cases h; exact applyErrors_length pad word errors
    · cases h

/-- Settles O44: adding the error values keeps the length, and the corrector checks the rest. -/
theorem correctorAnswersNearbyCodewords : Obligations.CorrectorAnswersNearbyCodewords := by
  intro rom pad word c hlen h
  obtain ⟨hzero, hnear⟩ := decodeWord_some h
  exact ⟨⟨(decodeWord_length h).trans hlen, (allZero_syndromes_iff rom c).mp hzero⟩, hnear⟩

/-! ## DEC_CORRECT -/

/-- The corrections are the positions that differ, each with the codeword's byte. -/
theorem mem_corrections_iff {pad : Nat} {word code : List Byte} (hlen : code.length = word.length)
    (kv : Nat × Byte) :
    kv ∈ corrections pad word code ↔ (pad ≤ kv.1 ∧ kv.1 < pad + word.length) ∧
      code.getD (kv.1 - pad) 0 = kv.2 ∧ word.getD (kv.1 - pad) 0 ≠ code.getD (kv.1 - pad) 0 := by
  obtain ⟨k, v⟩ := kv
  constructor
  · intro h
    obtain ⟨⟨k', a, b⟩, hx, hkv⟩ := List.mem_map.mp h
    obtain ⟨rfl, rfl⟩ := Prod.mk.inj hkv
    obtain ⟨hx, hne⟩ := List.mem_filter.mp hx
    obtain ⟨m, hm, hget⟩ := List.getElem_of_mem hx
    simp only [List.length_zip, List.length_range', hlen, Nat.min_self] at hm
    simp only [List.getElem_zip, List.getElem_range', Nat.one_mul, Prod.mk.injEq] at hget
    obtain ⟨rfl, rfl, rfl⟩ := hget
    rw [Nat.add_sub_cancel_left, List.getD_eq_getElem _ _ hm, List.getD_eq_getElem _ _ (hlen.symm ▸ hm)]
    exact ⟨by omega, rfl, by simpa using hne⟩
  · rintro ⟨⟨hlow, hhigh⟩, hv, hne⟩
    obtain ⟨m, rfl⟩ := Nat.exists_eq_add_of_le hlow
    have hm : m < word.length := by omega
    have hm' : m < code.length := hlen.symm ▸ hm
    rw [Nat.add_sub_cancel_left, List.getD_eq_getElem _ _ hm'] at hv hne
    rw [List.getD_eq_getElem _ _ hm] at hne
    refine List.mem_map.mpr
      ⟨(pad + m, word[m], code[m]), List.mem_filter.mpr ⟨?_, by simpa using hne⟩, by rw [hv]⟩
    exact List.mem_iff_getElem.mpr ⟨m, by simp [hlen, hm], by simp⟩

theorem mem_correctionKeys_iff {pad : Nat} {word code : List Byte} (hlen : code.length = word.length) (k : Nat) :
    k ∈ (corrections pad word code).map Prod.fst ↔ (pad ≤ k ∧ k < pad + word.length) ∧
      word.getD (k - pad) 0 ≠ code.getD (k - pad) 0 := by
  rw [List.mem_map]
  constructor
  · rintro ⟨kv, hkv, rfl⟩
    obtain ⟨hrange, -, hne⟩ := (mem_corrections_iff hlen kv).mp hkv
    exact ⟨hrange, hne⟩
  · rintro ⟨hrange, hne⟩
    exact ⟨(k, code.getD (k - pad) 0), (mem_corrections_iff hlen _).mpr ⟨hrange, rfl, hne⟩, rfl⟩

theorem corrections_nodup (pad : Nat) (word code : List Byte) : ((corrections pad word code).map Prod.fst).Nodup :=
  (corrections_keys pad word code).1.imp ne_of_lt

/-- A buffer with the corrections written holds the codeword at the positions of the received word, and every other byte
as before. -/
theorem cwByte_of_writeAll_corrections {s t : State} {pad : Byte} {code : List Byte}
    (hlen : code.length = 255 - pad.toNat)
    (hcw : t.cw = s.cw.writeAll (corrections pad.toNat (s.receivedWord pad) code)) (hp : t.powerUps = s.powerUps)
    (k : Nat) :
    t.cwByte k = if pad.toNat ≤ k ∧ k ≤ 254 then code.getD (k - pad.toNat) 0 else s.cwByte k := by
  have hsame : code.length = (s.receivedWord pad).length := by rw [hlen, State.receivedWord_length]
  have hkeys := mem_correctionKeys_iff (pad := pad.toNat) hsame k
  rw [State.receivedWord_length] at hkeys
  by_cases hk : k ∈ (corrections pad.toNat (s.receivedWord pad) code).map Prod.fst
  · obtain ⟨hrange, hne⟩ := hkeys.mp hk
    have hmem : (k, code.getD (k - pad.toNat) 0) ∈ corrections pad.toNat (s.receivedWord pad) code :=
      (mem_corrections_iff hsame _).mpr ⟨by rwa [State.receivedWord_length], rfl, hne⟩
    rw [if_pos (by omega)]
    refine State.cwByte_of_read ?_
    rw [hcw]
    exact Memory.read_writeAll_mem _ (corrections_nodup _ _ _) hmem
  · have hread : t.cw.read k = s.cw.read k := by
      rw [hcw]
      exact Memory.read_writeAll_other _ _ fun kv hkv he => hk (List.mem_map.mpr ⟨kv, hkv, he⟩)
    rw [State.cwByte_congr_read hread hp]
    split
    · next hrange =>
      rw [← receivedWord_getD s hrange.1 (by omega)]
      exact not_not.mp fun hne => hk (hkeys.mpr ⟨by omega, hne⟩)
    · rfl

/-- ERRLOC for a list of corrections: their positions, then zeros (10_state R48). -/
def errLocOf (e : List (Nat × Byte)) : Vector Byte 16 := tabulate 16 fun n => BitVec.ofNat 8 (e.getD n (0, 0)).1

theorem errLocOf_getElem (e : List (Nat × Byte)) (n : Fin 16) :
    (errLocOf e)[n] = BitVec.ofNat 8 (e.getD n (0, 0)).1 :=
  getElem_tabulate 16 _ n n.isLt

theorem errLocOf_of_le {e : List (Nat × Byte)} {n : Fin 16} (hn : e.length ≤ n.val) : (errLocOf e)[n] = 0 := by
  rw [errLocOf_getElem, List.getD_eq_default _ _ hn]
  rfl

section ErrLoc

variable {e : List (Nat × Byte)} (hlt : ∀ kv ∈ e, kv.1 < 255)
include hlt

theorem errLocOf_toNat {n : Fin 16} (hn : n.val < e.length) : (errLocOf e)[n].toNat = e[n.val].1 := by
  rw [errLocOf_getElem, BitVec.toNat_ofNat, Nat.mod_eq_of_lt (keys_getD_lt hlt n), List.getD_eq_getElem e _ hn]

theorem mem_keys_iff_errLocOf (hlen : e.length ≤ 16) (k : Nat) :
    k ∈ e.map Prod.fst ↔ ∃ n : Fin 16, n.val < e.length ∧ (errLocOf e)[n].toNat = k := by
  constructor
  · intro hk
    obtain ⟨n, hn, rfl⟩ := List.getElem_of_mem hk
    rw [List.length_map] at hn
    rw [List.getElem_map]
    exact ⟨⟨n, by omega⟩, hn, errLocOf_toNat hlt hn⟩
  · rintro ⟨n, hn, rfl⟩
    rw [errLocOf_toNat hlt hn]
    exact List.mem_map_of_mem (List.getElem_mem hn)

theorem errLocOf_lt (hasc : (e.map Prod.fst).Pairwise (· < ·)) {m n : Fin 16} (hmn : m < n) (hn : n.val < e.length) :
    (errLocOf e)[m] < (errLocOf e)[n] := by
  have hm : m.val < e.length := Nat.lt_trans hmn hn
  rw [BitVec.lt_def, errLocOf_toNat hlt hm, errLocOf_toNat hlt hn]
  exact List.pairwise_iff_getElem.mp (List.pairwise_map.mp hasc) m n hm hn hmn

end ErrLoc

theorem runTurn_engine_of_decCorrect {s : State} {pad : Byte} (h : s.job = some (.decCorrect pad)) :
    runTurn .engine s = .next (completeDecCorrect pad s).settleIrq := by
  show engineTurn s = _
  rw [engineTurn, engineStep, h]
  rfl

/-- The completion with a codeword found. -/
theorem completeDecCorrect_of_some {s : State} {pad : Byte} {code : List Byte}
    (h : decodeWord s.rom pad.toNat (s.receivedWord pad) = some code) :
    completeDecCorrect pad s =
      { s with
        syn := syndromes s.rom (s.receivedWord pad),
        cw := s.cw.writeAll (corrections pad.toNat (s.receivedWord pad) code),
        decNerr := BitVec.ofNat 5 (corrections pad.toNat (s.receivedWord pad) code).length,
        errLoc := errLocOf (corrections pad.toNat (s.receivedWord pad) code), job := none,
        status := { s.status with
          synZero := allZero (syndromes s.rom (s.receivedWord pad)), decFail := false, busy := false,
          done := true } } := by
  rw [completeDecCorrect, h]
  rfl

/-- The completion with no codeword found. -/
theorem completeDecCorrect_of_none {s : State} {pad : Byte}
    (h : decodeWord s.rom pad.toNat (s.receivedWord pad) = none) :
    completeDecCorrect pad s =
      { s with
        syn := syndromes s.rom (s.receivedWord pad), decNerr := 0, errLoc := Vector.replicate 16 0, job := none,
        status := { s.status with
          synZero := allZero (syndromes s.rom (s.receivedWord pad)), decFail := true, busy := false,
          done := true } } := by
  rw [completeDecCorrect, h]
  rfl

/-- Settles O43: by whether the corrector finds a codeword. -/
theorem decCorrectCompletion : Obligations.DecCorrectCompletion := by
  intro pad s hjob hpad
  rw [← receivedWord_eq]
  intro word
  refine ⟨_, runTurn_engine_of_decCorrect hjob, ?_⟩
  have hsyn (i : Fin 32) : (syndromes s.rom word)[i] = syndrome s.rom word i := getElem_syndromes s.rom word i i.isLt
  have hzero := allZero_syndromes_iff s.rom word
  cases hfound : decodeWord s.rom pad.toNat word with
  | none =>
    rw [completeDecCorrect_of_none hfound]
    exact ⟨hsyn, hzero, nofun, fun _ => ⟨rfl, rfl, rfl, rfl⟩, rfl⟩
  | some code =>
    have hword : word.length = 255 - pad.toNat := s.receivedWord_length pad
    have hlen : code.length = word.length := decodeWord_length hfound
    obtain ⟨hasc, hrange⟩ := corrections_keys pad.toNat word code
    have hlt : ∀ kv ∈ corrections pad.toNat word code, kv.1 < 255 := fun kv hkv => by
      have := (hrange kv hkv).2
      omega
    have hcount : (corrections pad.toNat word code).length ≤ 16 :=
      (corrections_length pad.toNat word code).trans_le (decodeWord_some hfound).2
    have hnerr : (BitVec.ofNat 5 (corrections pad.toNat word code).length).toNat =
        (corrections pad.toNat word code).length := by
      rw [BitVec.toNat_ofNat]
      omega
    rw [completeDecCorrect_of_some hfound]
    refine ⟨hsyn, hzero, fun c hc => ?_, nofun, rfl⟩
    obtain rfl : code = c := Option.some.inj hc
    refine ⟨cwByte_of_writeAll_corrections (hlen.trans hword) rfl rfl, rfl,
      hnerr.trans (corrections_length pad.toNat word code), fun k hlow hhigh => ?_, fun m n hmn hn => ?_,
      fun n hn => errLocOf_of_le (hnerr.symm.trans_le hn)⟩
    · have hkeys := (mem_correctionKeys_iff (pad := pad.toNat) hlen k).symm.trans (mem_keys_iff_errLocOf hlt hcount k)
      rw [receivedWord_getD s hlow (by omega), and_iff_right (by omega), ne_comm, ← hnerr] at hkeys
      exact hkeys
    · exact errLocOf_lt hlt hasc hmn (hn.trans_eq hnerr)

end Sys2Proof.Machine
end

section
/-! PROOFS. The distance of the code (O45): the difference of two codewords has 32 roots in a row, so by the BCH bound
it is zero or has more than 32 nonzero coefficients. -/

namespace Sys2Proof.Machine

/-- The difference of two words as a polynomial, the constant term first: the coefficient of `x^d` belongs to the symbol
at index 254 - d. -/
def difference (u v : List Byte) : List Byte := (List.zipWith (· ^^^ ·) u v).reverse

theorem difference_length {u v : List Byte} (hlen : v.length = u.length) : (difference u v).length = u.length := by
  rw [difference, List.length_reverse, List.length_zipWith, hlen, Nat.min_self]

/-- The words differ where their difference is nonzero. -/
theorem weight_difference (u v : List Byte) : weight (difference u v) = distance u v := by
  rw [weight, difference, List.countP_reverse]
  induction u generalizing v with
  | nil => rfl
  | cons a u ih =>
    cases v with
    | nil => rfl
    | cons b v =>
      have hne : (a ^^^ b != 0) = (a != b) := by simp [bne, BitVec.xor_eq_zero_iff]
      rw [List.zipWith_cons_cons, List.countP_cons, ih, hne, distance, distance, List.zip_cons_cons, List.filter_cons]
      cases a != b <;> rfl

theorem eq_of_distance_eq_zero {u v : List Byte} (hlen : v.length = u.length) (h : distance u v = 0) : u = v := by
  have hall := List.filter_eq_nil_iff.mp (List.length_eq_zero_iff.mp h)
  refine List.ext_getElem hlen.symm fun i hi hi' => ?_
  have hmem : (u[i], v[i]) ∈ u.zip v := List.mem_iff_getElem.mpr ⟨i, by simp [hi, hi'], by simp⟩
  simpa using hall _ hmem

section Primitive

variable {p : BitVec 9} (hp : isPrimitive p = true)
include hp

/-- The value of a difference is the difference of the values. -/
theorem polyEval_difference {u v : List Byte} (hlen : v.length = u.length) (z : Byte) :
    polyEval (romOf p) (difference u v) z = horner (romOf p) z u ^^^ horner (romOf p) z v := by
  rw [difference, polyEval_reverse]
  simp only [horner_eq_wordValue hp]
  induction u generalizing v with
  | nil => rw [List.length_eq_zero_iff.mp hlen]; exact BitVec.xor_self.symm
  | cons a u ih =>
    obtain ⟨b, v, rfl⟩ := List.exists_cons_of_length_eq_add_one hlen
    have hlen : v.length = u.length := Nat.succ.inj hlen
    rw [List.zipWith_cons_cons, wordValue, wordValue, wordValue, ih hlen, List.length_zipWith, hlen, Nat.min_self,
      ← gmul_eq_fieldMul hp, ← gmul_eq_fieldMul hp a, ← gmul_eq_fieldMul hp b, xor_gmul hp]
    ac_rfl

/-- At a root of the code the difference to a codeword has the value of the syndrome. -/
theorem polyEval_difference_of_inCode {pad : Nat} {word code : List Byte} (hcode : inCode (romOf p) pad code)
    (hlen : word.length = 255 - pad) {i : Nat} (hi : i < 32) :
    polyEval (romOf p) (difference word code) (rootPow p (112 + i)) = syndrome (romOf p) word i := by
  obtain ⟨hlen', hzero⟩ := hcode
  have hcode : horner (romOf p) (rootOf (romOf p) i) code = 0 := hzero i hi
  rw [← rootOf_eq_rootPow hp, polyEval_difference hp (hlen'.trans hlen.symm), hcode]
  exact BitVec.xor_zero

end Primitive

/-- Settles O45, by the BCH bound for the difference of the codewords. -/
theorem codewordsAreFarApart : Obligations.CodewordsAreFarApart := by
  intro p pad u v hp hpad hu hv hne
  have hlen : v.length = u.length := hv.1.trans hu.1.symm
  by_contra hfew
  have hroots : ∀ i < 32, polyEval (romOf p) (difference u v) (rootPow p (112 + i)) = 0 := fun i hi =>
    (polyEval_difference_of_inCode hp hv hu.1 hi).trans (hu.2 i hi)
  have hweight := weight_eq_zero_of_roots hp (f := difference u v)
    (by rw [difference_length hlen, hu.1]; omega) (by rw [weight_difference]; omega) hroots
  exact hne (eq_of_distance_eq_zero hlen ((weight_difference u v).symm.trans hweight))

end Sys2Proof.Machine
end

section
/-! PROOFS. Sums over the field, and polynomials over it: a polynomial as the sum of its terms, division by a factor
`x - r`, and the bound on the number of roots. -/

namespace Sys2Proof.Machine

/-! ## Sums -/

/-- The sum of `g 0, …, g (n - 1)` in the field. -/
def xorSum (n : Nat) (g : Nat → Byte) : Byte := (List.range n).foldl (fun acc i => acc ^^^ g i) 0

theorem xorSum_succ (n : Nat) (g : Nat → Byte) : xorSum (n + 1) g = xorSum n g ^^^ g n := by
  rw [xorSum, List.range_succ, List.foldl_concat]
  rfl

theorem xorSum_congr {n : Nat} {g h : Nat → Byte} (hgh : ∀ i < n, g i = h i) : xorSum n g = xorSum n h :=
  List.foldl_ext _ _ _ fun acc i hi => congrArg (acc ^^^ ·) (hgh i (List.mem_range.mp hi))

theorem xorSum_eq_zero {n : Nat} {g : Nat → Byte} (hg : ∀ i < n, g i = 0) : xorSum n g = 0 := by
  induction n with
  | zero => rfl
  | succ n ih =>
    rw [xorSum_succ, ih fun i hi => hg i (by omega), hg n (by omega)]
    rfl

theorem xorSum_xor (n : Nat) (g h : Nat → Byte) : xorSum n (fun i => g i ^^^ h i) = xorSum n g ^^^ xorSum n h := by
  induction n with
  | zero => exact BitVec.xor_self.symm
  | succ n ih =>
    rw [xorSum_succ, xorSum_succ, xorSum_succ, ih]
    ac_rfl

theorem xorSum_succ_first (n : Nat) (g : Nat → Byte) : xorSum (n + 1) g = g 0 ^^^ xorSum n fun i => g (i + 1) := by
  induction n with
  | zero => exact BitVec.xor_comm ..
  | succ n ih => rw [xorSum_succ, ih, xorSum_succ, BitVec.xor_assoc]

theorem xorSum_comm (m n : Nat) (g : Nat → Nat → Byte) :
    xorSum m (fun i => xorSum n (g i)) = xorSum n fun j => xorSum m fun i => g i j := by
  induction m with
  | zero => exact (xorSum_eq_zero fun _ _ => rfl).symm
  | succ m ih => simp only [xorSum_succ, xorSum_xor, ih]

/-- A sum with one term that may be nonzero. -/
theorem xorSum_eq_single {n m : Nat} {g : Nat → Byte} (hm : m < n) (hg : ∀ i < n, i ≠ m → g i = 0) :
    xorSum n g = g m := by
  induction n with
  | zero => omega
  | succ n ih =>
    rw [xorSum_succ]
    rcases Nat.lt_succ_iff_lt_or_eq.mp hm with hlt | rfl
    · rw [ih hlt fun i hi => hg i (by omega), hg n (by omega) (by omega)]
      exact BitVec.xor_zero
    · rw [xorSum_eq_zero fun i hi => hg i (by omega) (by omega)]
      exact BitVec.zero_xor

/-- In characteristic 2 equal terms cancel. -/
theorem xor_xor_xor_cancel (x y z : Byte) : x ^^^ y ^^^ (y ^^^ z) = x ^^^ z := by
  rw [BitVec.xor_assoc, ← BitVec.xor_assoc y, BitVec.xor_self, BitVec.zero_xor]

/-! ## Degree -/

theorem polyEval_zero (rom : Rom) (f : List Byte) : polyEval rom f 0 = f.getD 0 0 := by
  cases f with
  | nil => rfl
  | cons c f =>
    rw [polyEval_cons, gmul_zero_right]
    exact BitVec.zero_xor

/-- Above the degree every coefficient is zero. -/
theorem polyEval_take_polyDegree (rom : Rom) (f : List Byte) (z : Byte) :
    polyEval rom (f.take (polyDegree f + 1)) z = polyEval rom f z := by
  induction f with
  | nil => rfl
  | cons c f ih =>
    rw [polyDegree]
    split
    · next hzero =>
      have hnone : weight f = 0 := (weight_eq_zero_iff f).mpr (by simpa using hzero)
      rw [List.take_succ_cons, List.take_zero, polyEval_cons, polyEval_cons, polyEval_of_weight_eq_zero rom hnone,
        polyEval_nil]
    · rw [List.take_succ_cons, polyEval_cons, polyEval_cons, ih]

theorem polyDegree_le (f : List Byte) : polyDegree f ≤ f.length - 1 := by
  induction f with
  | nil => exact le_rfl
  | cons c f ih =>
    rw [polyDegree, List.length_cons]
    split
    · exact Nat.zero_le _
    · next hsome =>
      have : f ≠ [] := fun h => hsome (by rw [h]; rfl)
      have := List.length_pos_iff.mpr this
      omega

/-! ## Division by `x - r` -/

/-- The quotient of f(x) by `x - r`; the remainder is f(r). -/
def divideRoot (rom : Rom) (r : Byte) : List Byte → List Byte
  | [] => []
  | [_] => []
  | _ :: c :: f => polyEval rom (c :: f) r :: divideRoot rom r (c :: f)

theorem divideRoot_length (rom : Rom) (r : Byte) (f : List Byte) : (divideRoot rom r f).length = f.length - 1 := by
  induction f with
  | nil => rfl
  | cons a f ih =>
    cases f with
    | nil => rfl
    | cons c f => exact congrArg (· + 1) ih

theorem divideRoot_getD (rom : Rom) (r : Byte) (f : List Byte) (n : Nat) :
    (divideRoot rom r f).getD n 0 = polyEval rom (f.drop (n + 1)) r := by
  induction f generalizing n with
  | nil => rfl
  | cons a f ih =>
    cases f with
    | nil => rw [List.drop_succ_cons, List.drop_nil]; rfl
    | cons c f =>
      cases n with
      | zero => rfl
      | succ n => exact ih n

theorem polyEval_divideRoot_cons (rom : Rom) (r a : Byte) (f : List Byte) (z : Byte) :
    polyEval rom (divideRoot rom r (a :: f)) z =
      gmul rom (polyEval rom (divideRoot rom r f) z) z ^^^ polyEval rom f r := by
  cases f with
  | nil =>
    show (0 : Byte) = gmul rom 0 z ^^^ 0
    rw [gmul_zero_left]
    rfl
  | cons c f => rfl

theorem rootPow_zero (p : BitVec 9) : rootPow p 0 = 1 := rfl

section Primitive

variable {p : BitVec 9} (hp : isPrimitive p = true)
include hp

theorem gmul_xorSum (a : Byte) (n : Nat) (g : Nat → Byte) :
    gmul (romOf p) a (xorSum n g) = xorSum n fun i => gmul (romOf p) a (g i) := by
  induction n with
  | zero => exact gmul_zero_right _ a
  | succ n ih => rw [xorSum_succ, xorSum_succ, gmul_xor hp, ih]

/-- `f(z) = q(z) (z - r) + f(r)`, with q the quotient. -/
theorem polyEval_eq_divideRoot (r : Byte) (f : List Byte) (z : Byte) :
    polyEval (romOf p) f z =
      gmul (romOf p) (polyEval (romOf p) (divideRoot (romOf p) r f) z) (z ^^^ r) ^^^ polyEval (romOf p) f r := by
  induction f with
  | nil =>
    show (0 : Byte) = gmul (romOf p) 0 _ ^^^ 0
    rw [gmul_zero_left]
    rfl
  | cons a f ih =>
    rw [polyEval_divideRoot_cons, polyEval_cons, polyEval_cons, ih]
    generalize polyEval (romOf p) f r = b
    generalize polyEval (romOf p) (divideRoot (romOf p) r f) z = q
    have hq : gmul (romOf p) (gmul (romOf p) q r) z = gmul (romOf p) (gmul (romOf p) q z) r := by
      rw [gmul_assoc hp, gmul_assoc hp, gmul_comm _ r]
    simp only [gmul_xor hp, xor_gmul hp, hq]
    rw [← BitVec.xor_assoc _ _ (gmul (romOf p) b r), xor_xor_xor_cancel]
    ac_rfl

/-- A polynomial with as many different roots as coefficients is zero everywhere. -/
theorem polyEval_eq_zero_of_roots {f zs : List Byte} (hzs : zs.Nodup) (hlen : f.length ≤ zs.length)
    (hroots : ∀ z ∈ zs, polyEval (romOf p) f z = 0) (z : Byte) : polyEval (romOf p) f z = 0 := by
  induction zs generalizing f z with
  | nil => rw [List.length_eq_zero_iff.mp (Nat.le_zero.mp hlen)]; rfl
  | cons r zs ih =>
    obtain ⟨hr, hzs⟩ := List.nodup_cons.mp hzs
    have hzero : polyEval (romOf p) f r = 0 := hroots r List.mem_cons_self
    have hquot (x : Byte) : polyEval (romOf p) (divideRoot (romOf p) r f) x = 0 := by
      refine ih hzs (by rw [divideRoot_length]; exact Nat.sub_le_of_le_add hlen) (fun y hy => ?_) x
      have hy' := hroots y (List.mem_cons_of_mem r hy)
      rw [polyEval_eq_divideRoot hp r, hzero] at hy'
      have hne : y ^^^ r ≠ 0 := fun h => hr (BitVec.xor_eq_zero_iff.mp h ▸ hy)
      exact ((gmul_eq_zero hp _ _).mp (BitVec.xor_zero.symm.trans hy')).resolve_right hne
    rw [polyEval_eq_divideRoot hp r, hquot, hzero, gmul_zero_left]
    rfl

/-- A polynomial with a constant term has fewer different roots than coefficients. -/
theorem length_lt_of_roots {f zs : List Byte} (hconst : f.getD 0 0 ≠ 0) (hzs : zs.Nodup)
    (hroots : ∀ z ∈ zs, polyEval (romOf p) f z = 0) : zs.length < f.length := by
  by_contra hlen
  exact hconst ((polyEval_zero _ f).symm.trans (polyEval_eq_zero_of_roots hp hzs (by omega) hroots 0))

/-! ## At the powers of q -/

/-- Exponents of q count modulo 255. -/
theorem rootPow_add_mul (e k : Nat) : rootPow p (e + 255 * k) = rootPow p e := by
  rw [rootPow, rootPow, ← alphaPow_mod hp, ← alphaPow_mod hp (11 * e)]
  congr 1
  omega

theorem mod_eq_of_rootPow_eq {i j : Nat} (h : rootPow p i = rootPow p j) : i % 255 = j % 255 := by
  rw [rootPow, rootPow, ← alphaPow_mod hp, ← alphaPow_mod hp (11 * j)] at h
  have := alphaPow_injOn hp (Set.mem_Iio.mpr (Nat.mod_lt _ (by decide))) (Set.mem_Iio.mpr (Nat.mod_lt _ (by decide))) h
  omega

/-- A polynomial as the sum of its terms. -/
theorem polyEval_eq_xorSum {f : List Byte} {n : Nat} (hlen : f.length ≤ n) (e : Nat) :
    polyEval (romOf p) f (rootPow p e) = xorSum n fun i => gmul (romOf p) (f.getD i 0) (rootPow p (i * e)) := by
  induction f generalizing n with
  | nil => exact (xorSum_eq_zero fun i _ => gmul_zero_left _ _).symm
  | cons c f ih =>
    obtain ⟨n, rfl⟩ := Nat.exists_eq_add_one_of_ne_zero (by rw [List.length_cons] at hlen; omega : n ≠ 0)
    have hterm (i : Nat) : gmul (romOf p) ((c :: f).getD (i + 1) 0) (rootPow p ((i + 1) * e)) =
        gmul (romOf p) (rootPow p e) (gmul (romOf p) (f.getD i 0) (rootPow p (i * e))) := by
      rw [gmul_left_comm hp, gmul_rootPow hp, Nat.succ_mul, Nat.add_comm e]
      rfl
    have hfirst : gmul (romOf p) ((c :: f).getD 0 0) (rootPow p (0 * e)) = c := by
      rw [Nat.zero_mul, rootPow_zero, gmul_one_right hp]
      rfl
    rw [xorSum_succ_first, hfirst, xorSum_congr fun i _ => hterm i, ← gmul_xorSum hp,
      ← ih (Nat.le_of_succ_le_succ hlen), polyEval_cons, gmul_comm, BitVec.xor_comm]

/-- The terms below `x^n`, and those from `x^n` on. -/
theorem polyEval_take_drop (f : List Byte) (n e : Nat) :
    polyEval (romOf p) f (rootPow p e) = polyEval (romOf p) (f.take n) (rootPow p e) ^^^
      gmul (romOf p) (polyEval (romOf p) (f.drop n) (rootPow p e)) (rootPow p (e * n)) := by
  induction n generalizing f with
  | zero =>
    rw [List.take_zero, List.drop_zero, Nat.mul_zero, rootPow_zero, gmul_one_right hp]
    exact BitVec.zero_xor.symm
  | succ n ih =>
    cases f with
    | nil =>
      rw [List.take_nil, List.drop_nil, polyEval_nil, gmul_zero_left]
      rfl
    | cons c f =>
      rw [List.take_succ_cons, List.drop_succ_cons, polyEval_cons, polyEval_cons, ih, xor_gmul hp, gmul_assoc hp,
        gmul_rootPow hp, Nat.mul_succ]
      ac_rfl

theorem gpow_rootPow (e n : Nat) : gpow (romOf p) (rootPow p e) n = rootPow p (e * n) := by
  rw [gpow, rootPow, toNat_index_alphaPow hp, alphaMod_romOf hp, ← alphaPow_mod hp, Nat.mod_mul_mod, alphaPow_mod hp,
    Nat.mul_assoc]
  rfl

theorem ginv_rootPow (e : Nat) : ginv (romOf p) (rootPow p e) = rootPow p (254 * e) := by
  have hne := rootPow_ne_zero hp e
  have hinv : gmul (romOf p) (rootPow p e) (rootPow p (254 * e)) = 1 := by
    rw [gmul_rootPow hp, show e + 254 * e = 0 + 255 * e by omega, rootPow_add_mul hp]
    rfl
  calc ginv (romOf p) (rootPow p e)
      = gmul (romOf p) (ginv (romOf p) (rootPow p e)) (gmul (romOf p) (rootPow p e) (rootPow p (254 * e))) := by
        rw [hinv, gmul_one_right hp]
    _ = rootPow p (254 * e) := by
        rw [← gmul_assoc hp, gmul_comm _ (ginv _ _), gmul_ginv hp hne, gmul_one_left hp]

/-- The sum over the odd terms is the formal derivative: at r it is the value of the quotient by `x - r`. -/
theorem derivativeAt_rootPow (f : List Byte) (e : Nat) :
    derivativeAt (romOf p) f (rootPow p e) =
      polyEval (romOf p) (divideRoot (romOf p) (rootPow p e) f) (rootPow p e) := by
  have hsum : derivativeAt (romOf p) f (rootPow p e) = xorSum f.length fun i =>
      if i % 2 = 1 then gmul (romOf p) (f.getD i 0) (rootPow p (e * (i - 1))) else 0 := by
    rw [derivativeAt, List.foldl_filter]
    refine List.foldl_ext _ _ _ fun acc i _ => ?_
    rw [gpow_rootPow hp]
    by_cases hi : i % 2 = 1 <;> simp [hi]
  rw [hsum]
  clear hsum
  induction f with
  | nil => rfl
  | cons c f ih =>
    rw [polyEval_divideRoot_cons, ← ih, List.length_cons, xorSum_succ_first, if_neg (by decide),
      polyEval_eq_xorSum hp le_rfl, gmul_comm, gmul_xorSum hp, ← xorSum_xor]
    refine BitVec.zero_xor.trans (xorSum_congr fun i _ => ?_)
    rw [List.getD_cons_succ, Nat.add_sub_cancel]
    by_cases hi : i % 2 = 1
    · rw [if_neg (by omega), if_pos hi, gmul_left_comm hp, gmul_rootPow hp, Nat.add_comm e,
        ← Nat.mul_add_one, Nat.sub_add_cancel (by omega), Nat.mul_comm]
      exact BitVec.xor_self.symm
    · rw [if_pos (by omega), if_neg hi, gmul_zero_right, Nat.mul_comm]
      exact BitVec.zero_xor.symm

end Primitive

end Sys2Proof.Machine
end

section
/-! PROOFS. The error-locator solver (42_syndrome_decoder R167). For an error polynomial f, with locators `X = q^d` and
values `Y = f_d`, and a polynomial Lambda(x), take the sums `T_j` of `Y X^(112+j) Lambda(1/X)`. The discrepancy is one
of them, and by the BCH bound as many zero sums in a row as there are errors make Lambda zero at the inverse of every
locator. So a change of L never takes it above the number of errors. -/

namespace Sys2Proof.Machine

/-! ## The sums `T_j` -/

/-- `T_j`, the sum over the errors of `Y X^(112+j) Lambda(1/X)`. -/
def residual (p : BitVec 9) (f lambda : List Byte) (j : Nat) : Byte :=
  xorSum f.length fun d =>
    gmul (romOf p) (gmul (romOf p) (f.getD d 0) (rootPow p (d * (112 + j))))
      (polyEval (romOf p) lambda (rootPow p (254 * d)))

/-- Lambda is zero at the inverse of every error locator. -/
def locatesErrors (p : BitVec 9) (f lambda : List Byte) : Prop :=
  ∀ d, f.getD d 0 ≠ 0 → polyEval (romOf p) lambda (rootPow p (254 * d)) = 0

theorem residual_of_locatesErrors {p : BitVec 9} {f lambda : List Byte} (h : locatesErrors p f lambda) (j : Nat) :
    residual p f lambda j = 0 := by
  refine xorSum_eq_zero fun d _ => ?_
  by_cases hd : f.getD d 0 = 0
  · rw [hd, gmul_zero_left, gmul_zero_left]
  · rw [h d hd, gmul_zero_right]

/-- The errors with each value times `Lambda(1/X)`. -/
def scaledErrors (p : BitVec 9) (f lambda : List Byte) : List Byte :=
  (List.range f.length).map fun d => gmul (romOf p) (f.getD d 0) (polyEval (romOf p) lambda (rootPow p (254 * d)))

theorem map_getD_range (f : List Byte) : (List.range f.length).map (fun d => f.getD d 0) = f :=
  List.ext_getElem (by simp) fun d h _ => by
    rw [List.length_map, List.length_range] at h
    rw [List.getElem_map, List.getElem_range, List.getD_eq_getElem _ _ h]

theorem weight_scaledErrors_le (p : BitVec 9) (f lambda : List Byte) :
    weight (scaledErrors p f lambda) ≤ weight f := by
  conv_rhs => rw [← map_getD_range f]
  rw [weight, weight, scaledErrors, List.countP_map, List.countP_map]
  refine List.countP_mono_left fun d _ hd => ?_
  simp only [Function.comp_apply, bne_iff_ne] at hd ⊢
  exact fun h => hd (by rw [h, gmul_zero_left])

section Primitive

variable {p : BitVec 9} (hp : isPrimitive p = true)
include hp

theorem residual_polyAdd (f u v : List Byte) (j : Nat) :
    residual p f (polyAdd u v) j = residual p f u j ^^^ residual p f v j := by
  rw [residual, residual, residual, ← xorSum_xor]
  exact xorSum_congr fun d _ => by rw [polyEval_polyAdd hp, gmul_xor hp]

theorem residual_polyScale (f u : List Byte) (a : Byte) (j : Nat) :
    residual p f (polyScale (romOf p) a u) j = gmul (romOf p) a (residual p f u j) := by
  rw [residual, residual, gmul_xorSum hp]
  exact xorSum_congr fun d _ => by rw [polyEval_polyScale hp, gmul_left_comm hp]

theorem residual_polyShift (f u : List Byte) (j : Nat) :
    residual p f (polyShift u) (j + 1) = residual p f u j := by
  refine xorSum_congr fun d _ => ?_
  have hexp : d * (112 + (j + 1)) + 254 * d = d * (112 + j) + 255 * d := by ring
  rw [polyEval_polyShift, gmul_comm _ (polyEval _ u _), ← gmul_assoc hp, gmul_assoc hp (f.getD d 0), gmul_rootPow hp,
    hexp, rootPow_add_mul hp]

theorem polyEval_scaledErrors (f lambda : List Byte) (j : Nat) :
    polyEval (romOf p) (scaledErrors p f lambda) (rootPow p (112 + j)) = residual p f lambda j := by
  rw [polyEval_eq_xorSum hp (n := f.length) (by simp [scaledErrors])]
  refine xorSum_congr fun d hd => ?_
  rw [List.getD_eq_getElem _ _ (by simpa [scaledErrors] using hd)]
  simp only [scaledErrors, List.getElem_map, List.getElem_range]
  rw [gmul_assoc hp, gmul_assoc hp, gmul_comm _ (polyEval _ lambda _)]

/-- As many zero sums in a row as there are errors. -/
theorem locatesErrors_of_residuals {f lambda : List Byte} {a : Nat} (hlen : f.length ≤ 255)
    (hzero : ∀ j, a ≤ j → j < a + weight f → residual p f lambda j = 0) : locatesErrors p f lambda := by
  have hnone := weight_eq_zero_of_roots hp (f := scaledErrors p f lambda) (n := weight f) (a := 112 + a)
    (by simpa [scaledErrors] using hlen) (weight_scaledErrors_le p f lambda) fun i hi => by
      rw [Nat.add_assoc, polyEval_scaledErrors hp]
      exact hzero _ (by omega) (by omega)
  intro d hd
  have hlt : d < f.length := Nat.lt_of_not_le fun h => hd (List.getD_eq_default _ _ h)
  have hterm := (weight_eq_zero_iff _).mp hnone _ (List.mem_map_of_mem (List.mem_range.mpr hlt))
  exact ((gmul_eq_zero hp _ _).mp hterm).resolve_left hd

/-- A coefficient of the product of `S(x)` and `Lambda(x)` is a sum `T_j`, when Lambda has no term past `x^j`. -/
theorem xorSum_syndromes_eq_residual {f syn : List Byte}
    (hsyn : ∀ i < 32, syn.getD i 0 = polyEval (romOf p) f (rootPow p (112 + i))) {lambda : List Byte} {n j : Nat}
    (hlen : lambda.length ≤ n) (hn : n ≤ j + 1) (hj : j < 32) :
    xorSum n (fun i => gmul (romOf p) (lambda.getD i 0) (syn.getD (j - i) 0)) = residual p f lambda j := by
  calc xorSum n (fun i => gmul (romOf p) (lambda.getD i 0) (syn.getD (j - i) 0))
      = xorSum n fun i => xorSum f.length fun d =>
          gmul (romOf p) (lambda.getD i 0) (gmul (romOf p) (f.getD d 0) (rootPow p (d * (112 + (j - i))))) :=
        xorSum_congr fun i _ => by rw [hsyn _ (by omega), polyEval_eq_xorSum hp le_rfl, gmul_xorSum hp]
    _ = xorSum f.length fun d => xorSum n fun i =>
          gmul (romOf p) (lambda.getD i 0) (gmul (romOf p) (f.getD d 0) (rootPow p (d * (112 + (j - i))))) :=
        xorSum_comm ..
    _ = residual p f lambda j := xorSum_congr fun d _ => by
        rw [polyEval_eq_xorSum hp hlen, gmul_xorSum hp]
        refine xorSum_congr fun i hi => ?_
        have hexp : d * (112 + j) + i * (254 * d) = d * (112 + (j - i)) + 255 * (i * d) := by
          obtain ⟨k, rfl⟩ : ∃ k, j = i + k := Nat.exists_eq_add_of_le (by omega)
          rw [Nat.add_sub_cancel_left]
          ring
        rw [gmul_left_comm hp (lambda.getD i 0), gmul_assoc hp, gmul_left_comm hp (rootPow p _), gmul_rootPow hp, hexp,
          rootPow_add_mul hp]

end Primitive

/-! ## One step of Berlekamp-Massey -/

section Step

variable {rom : Rom} {syn : List Byte} {st : Locator} {r : Nat}

theorem berlekampStep_of_discrepancy_eq_zero (h : discrepancy rom syn st r = 0) :
    berlekampStep rom syn st r = { st with b := polyShift st.b } := if_pos h

/-- The step that takes L to r - L. -/
theorem berlekampStep_of_change (h : discrepancy rom syn st r ≠ 0) (hlen : 2 * st.len ≤ r - 1) :
    berlekampStep rom syn st r =
      { lambda := polyAdd st.lambda (polyScale rom (discrepancy rom syn st r) (polyShift st.b)),
        b := polyScale rom (ginv rom (discrepancy rom syn st r)) st.lambda, len := r - st.len } :=
  (if_neg h).trans (if_pos hlen)

/-- The step that corrects Lambda and keeps L. -/
theorem berlekampStep_of_keep (h : discrepancy rom syn st r ≠ 0) (hlen : ¬ 2 * st.len ≤ r - 1) :
    berlekampStep rom syn st r =
      { st with
        lambda := polyAdd st.lambda (polyScale rom (discrepancy rom syn st r) (polyShift st.b)),
        b := polyShift st.b } :=
  (if_neg h).trans (if_neg hlen)

end Step

/-! ## The invariant -/

/-- What holds of the solver after r steps. -/
structure Locator.Inv (p : BitVec 9) (f : List Byte) (r : Nat) (st : Locator) : Prop where
  lenLe : st.len ≤ r
  /-- L is at most the number of errors. -/
  lenLeWeight : st.len ≤ weight f
  /-- The degree of Lambda is at most L. -/
  lambdaLength : st.lambda.length ≤ st.len + 1
  lambdaConst : st.lambda.getD 0 0 = 1
  /-- The degree of B is at most r - L. -/
  bLength : st.b.length + st.len ≤ r + 1
  /-- The sums of Lambda from `T_L` on, as far as the syndromes are used, are zero. -/
  lambdaResidual : ∀ j, st.len ≤ j → j < r → residual p f st.lambda j = 0
  /-- The last r - L sums of `x B(x)` are zero but for the last, which is one. -/
  bResidual : ∀ j, r < j + st.len → j ≤ r → residual p f (polyShift st.b) j = if j = r then 1 else 0

theorem Locator.Inv.start (p : BitVec 9) (f : List Byte) : Locator.Inv p f 0 { lambda := [1], b := [1], len := 0 } where
  lenLe := le_rfl
  lenLeWeight := Nat.zero_le _
  lambdaLength := le_rfl
  lambdaConst := rfl
  bLength := le_rfl
  lambdaResidual := fun _ _ h => absurd h (Nat.not_lt_zero _)
  bResidual := fun _ h h' => absurd h (Nat.not_lt.mpr h')

section Primitive

variable {p : BitVec 9} (hp : isPrimitive p = true) {f syn : List Byte} {r : Nat} {st : Locator}
include hp

/-- The discrepancy is the first sum of Lambda not known to be zero. -/
theorem Locator.Inv.discrepancy_eq (h : st.Inv p f r) (hr : r < 32)
    (hsyn : ∀ i < 32, syn.getD i 0 = polyEval (romOf p) f (rootPow p (112 + i))) :
    discrepancy (romOf p) syn st (r + 1) = residual p f st.lambda r :=
  xorSum_syndromes_eq_residual hp hsyn h.lambdaLength (Nat.succ_le_succ h.lenLe) hr

/-- The sums of `x B(x)` move on with the step. -/
theorem Locator.Inv.bResidual_shift (h : st.Inv p f r) (j : Nat) (hlow : r + 1 < j + st.len) (hj : j ≤ r + 1) :
    residual p f (polyShift (polyShift st.b)) j = if j = r + 1 then 1 else 0 := by
  have hlen := h.lenLe
  obtain ⟨j, rfl⟩ := Nat.exists_eq_add_one_of_ne_zero (show j ≠ 0 by omega)
  rw [residual_polyShift hp, h.bResidual j (by omega) (by omega)]
  simp only [Nat.add_right_cancel_iff]

/-- With no discrepancy B moves on. -/
theorem Locator.Inv.shift (h : st.Inv p f r) (hzero : residual p f st.lambda r = 0) :
    Locator.Inv p f (r + 1) { st with b := polyShift st.b } where
  lenLe := h.lenLe.trans r.le_succ
  lenLeWeight := h.lenLeWeight
  lambdaLength := h.lambdaLength
  lambdaConst := h.lambdaConst
  bLength := by
    have := h.bLength
    simp only [polyShift, List.length_cons]
    omega
  lambdaResidual := fun j hlow hj => by
    rcases Nat.lt_succ_iff_lt_or_eq.mp hj with hj | rfl
    · exact h.lambdaResidual j hlow hj
    · exact hzero
  bResidual := h.bResidual_shift hp

end Primitive

/-- Lambda after its correction, `Lambda + Delta x B(x)`, with its discrepancy as a sum `T_r`. -/
def Locator.corrected (p : BitVec 9) (f : List Byte) (r : Nat) (st : Locator) : List Byte :=
  polyAdd st.lambda (polyScale (romOf p) (residual p f st.lambda r) (polyShift st.b))

theorem Locator.Inv.corrected_const {p : BitVec 9} {f : List Byte} {r : Nat} {st : Locator} (h : st.Inv p f r) :
    (st.corrected p f r).getD 0 0 = 1 := by
  rw [Locator.corrected, polyAdd_getD, h.lambdaConst, polyScale_getD]
  exact (congrArg ((1 : Byte) ^^^ ·) (gmul_zero_right _ _)).trans BitVec.xor_zero

theorem Locator.Inv.corrected_length {p : BitVec 9} {f : List Byte} {r n : Nat} {st : Locator} (h : st.Inv p f r)
    (hlen : st.len ≤ n) (hn : r + 1 ≤ n + st.len) : (st.corrected p f r).length ≤ n + 1 := by
  have hlambda := h.lambdaLength
  have hb := h.bLength
  simp only [Locator.corrected, polyAdd_length, polyScale, polyShift, List.length_map, List.length_cons]
  omega

section Primitive

variable {p : BitVec 9} (hp : isPrimitive p = true) {f syn : List Byte} {r : Nat} {st : Locator}
include hp

/-- The correction makes one more sum zero, and keeps those that were. -/
theorem Locator.Inv.corrected_residual (h : st.Inv p f r) {j : Nat} (hlow : st.len ≤ j) (hsum : r < j + st.len)
    (hj : j ≤ r) : residual p f (st.corrected p f r) j = 0 := by
  rw [Locator.corrected, residual_polyAdd hp, residual_polyScale hp, h.bResidual j hsum hj]
  rcases Nat.lt_or_eq_of_le hj with hj | rfl
  · rw [h.lambdaResidual j hlow hj, if_neg hj.ne, gmul_zero_right]
    exact BitVec.xor_self
  · rw [if_pos rfl, gmul_one_right hp]
    exact BitVec.xor_self

/-- A change of L stays within the number of errors: with that many zero sums the discrepancy would be zero. -/
theorem Locator.Inv.change_le_weight (h : st.Inv p f r) (hlen : f.length ≤ 255)
    (hne : residual p f st.lambda r ≠ 0) : r + 1 - st.len ≤ weight f := by
  by_contra hmany
  exact hne (residual_of_locatesErrors (locatesErrors_of_residuals hp (a := st.len) hlen fun j hlow hj =>
    h.lambdaResidual j hlow (by omega)) r)

theorem Locator.Inv.change (h : st.Inv p f r) (hlen : f.length ≤ 255) (hne : residual p f st.lambda r ≠ 0)
    (hchange : 2 * st.len ≤ r) :
    Locator.Inv p f (r + 1)
      { lambda := st.corrected p f r, b := polyScale (romOf p) (ginv (romOf p) (residual p f st.lambda r)) st.lambda,
        len := r + 1 - st.len } where
  lenLe := Nat.sub_le ..
  lenLeWeight := h.change_le_weight hp hlen hne
  lambdaLength := h.corrected_length (n := r + 1 - st.len) (by omega) (by omega)
  lambdaConst := h.corrected_const
  bLength := by
    have := h.lambdaLength
    simp only [polyScale, List.length_map]
    omega
  lambdaResidual := fun j (hlow : r + 1 - st.len ≤ j) hj =>
    h.corrected_residual hp (by omega) (by omega) (by omega)
  bResidual := fun j (hlow : r + 1 < j + (r + 1 - st.len)) hj => by
    obtain ⟨j, rfl⟩ := Nat.exists_eq_add_one_of_ne_zero (show j ≠ 0 by omega)
    rw [residual_polyShift hp, residual_polyScale hp]
    rcases Nat.lt_or_eq_of_le hj with hj | hj
    · rw [h.lambdaResidual j (by omega) (by omega), gmul_zero_right, if_neg hj.ne]
    · rw [if_pos hj, Nat.succ.inj hj, gmul_comm, gmul_ginv hp hne]

theorem Locator.Inv.keep (h : st.Inv p f r) (hkeep : ¬ 2 * st.len ≤ r) :
    Locator.Inv p f (r + 1) { st with lambda := st.corrected p f r, b := polyShift st.b } where
  lenLe := h.lenLe.trans r.le_succ
  lenLeWeight := h.lenLeWeight
  lambdaLength := h.corrected_length (n := st.len) le_rfl (by omega)
  lambdaConst := h.corrected_const
  bLength := by
    have := h.bLength
    simp only [polyShift, List.length_cons]
    omega
  lambdaResidual := fun j (hlow : st.len ≤ j) hj => h.corrected_residual hp hlow (by omega) (by omega)
  bResidual := h.bResidual_shift hp

theorem Locator.Inv.step (h : st.Inv p f r) (hlen : f.length ≤ 255) (hr : r < 32)
    (hsyn : ∀ i < 32, syn.getD i 0 = polyEval (romOf p) f (rootPow p (112 + i))) :
    Locator.Inv p f (r + 1) (berlekampStep (romOf p) syn st (r + 1)) := by
  have hdisc := h.discrepancy_eq hp hr hsyn
  by_cases hzero : residual p f st.lambda r = 0
  · rw [berlekampStep_of_discrepancy_eq_zero (hdisc.trans hzero)]
    exact h.shift hp hzero
  · have hne := hdisc.trans_ne hzero
    by_cases hchange : 2 * st.len ≤ r
    · rw [berlekampStep_of_change hne hchange, hdisc]
      exact h.change hp hlen hzero hchange
    · rw [berlekampStep_of_keep hne hchange, hdisc]
      exact h.keep hp hchange

theorem Locator.Inv.berlekampMassey (hlen : f.length ≤ 255)
    (hsyn : ∀ i < 32, syn.getD i 0 = polyEval (romOf p) f (rootPow p (112 + i))) :
    (berlekampMassey (romOf p) syn).Inv p f 32 := by
  have hsteps (n : Nat) (hn : n ≤ 32) : Locator.Inv p f n
      ((List.range' 1 n).foldl (berlekampStep (romOf p) syn) { lambda := [1], b := [1], len := 0 }) := by
    induction n with
    | zero => exact Locator.Inv.start p f
    | succ n ih =>
      rw [List.range'_1_concat, List.foldl_concat, Nat.add_comm 1]
      exact (ih (by omega)).step hp hlen hn hsyn
  exact hsteps 32 le_rfl

/-- With at most 16 errors 32 syndromes are enough: the final Lambda locates them all. -/
theorem Locator.Inv.locatesErrors (h : st.Inv p f 32) (hlen : f.length ≤ 255) (hweight : weight f ≤ 16) :
    locatesErrors p f st.lambda :=
  locatesErrors_of_residuals hp (a := st.len) hlen fun j hlow hj => h.lambdaResidual j hlow (by
    have := h.lenLeWeight
    omega)

end Primitive

end Sys2Proof.Machine
end

section
/-! PROOFS. The Chien search and Forney's formula (42_syndrome_decoder R168) on a Lambda(x) that locates the errors and
has at most one coefficient more than there are errors. Its roots are then the inverse locators and no others, all
simple, and `Omega(x)` is the sum over the errors of `Y X^111 Lambda(x) / (x - 1/X)`, of which one term is left at an
inverse locator. -/

namespace Sys2Proof.Machine

/-! ## The positions of the errors -/

/-- The CW indices of the errors, ascending: the coefficient of `x^d` belongs to index 254 - d. -/
def errorPositions (f : List Byte) : List Nat := (List.range 255).filter fun k => f.getD (254 - k) 0 != 0

theorem mem_errorPositions_iff (f : List Byte) (k : Nat) :
    k ∈ errorPositions f ↔ k < 255 ∧ f.getD (254 - k) 0 ≠ 0 := by
  rw [errorPositions, List.mem_filter, List.mem_range, bne_iff_ne]

theorem errorPositions_nodup (f : List Byte) : (errorPositions f).Nodup := List.nodup_range.filter _

theorem countP_getD_range {f : List Byte} {n : Nat} (hlen : f.length ≤ n) :
    (List.range n).countP (fun d => f.getD d 0 != 0) = weight f := by
  induction n, hlen using Nat.le_induction with
  | base =>
    conv_rhs => rw [← map_getD_range f]
    rw [weight, List.countP_map]
    rfl
  | succ n hn ih =>
    rw [List.range_succ, List.countP_append, ih, List.countP_singleton, List.getD_eq_default _ _ hn]
    rfl

theorem errorPositions_length {f : List Byte} (hlen : f.length ≤ 255) : (errorPositions f).length = weight f := by
  have hreverse : (List.range 255).reverse = (List.range 255).map (254 - ·) :=
    (congrArg List.reverse List.range_eq_range').trans List.reverse_range'
  calc (errorPositions f).length = (List.range 255).countP ((fun d => f.getD d 0 != 0) ∘ (254 - ·)) :=
        List.countP_eq_length_filter.symm
    _ = (List.range 255).countP fun d => f.getD d 0 != 0 := by
        rw [← List.countP_map, ← hreverse, List.countP_reverse]
    _ = weight f := countP_getD_range hlen

/-- The inverse locators of the errors. -/
def inverseLocators (p : BitVec 9) (f : List Byte) : List Byte :=
  (errorPositions f).map fun k => rootPow p (254 * (254 - k))

theorem inverseLocators_length (p : BitVec 9) {f : List Byte} (hlen : f.length ≤ 255) :
    (inverseLocators p f).length = weight f := by
  rw [inverseLocators, List.length_map, errorPositions_length hlen]

theorem polyEval_of_mem_inverseLocators {p : BitVec 9} {f lambda : List Byte} (h : locatesErrors p f lambda) :
    ∀ z ∈ inverseLocators p f, polyEval (romOf p) lambda z = 0 := by
  intro z hz
  obtain ⟨k, hk, rfl⟩ := List.mem_map.mp hz
  exact h _ ((mem_errorPositions_iff f k).mp hk).2

section Primitive

variable {p : BitVec 9} (hp : isPrimitive p = true) {f lambda : List Byte} (hlen : f.length ≤ 255)
include hp

theorem locatorOf_eq_rootPow (k : Nat) : locatorOf (romOf p) k = rootPow p (254 - k) := alphaMod_romOf hp _

theorem inverseLocator_inj {d e : Nat} (hd : d < 255) (he : e < 255)
    (h : rootPow p (254 * d) = rootPow p (254 * e)) : d = e := by
  have := mod_eq_of_rootPow_eq hp h
  omega

theorem inverseLocators_nodup (f : List Byte) : (inverseLocators p f).Nodup := by
  refine List.Nodup.map_on (fun k hk l hl h => ?_) (errorPositions_nodup f)
  have hk := ((mem_errorPositions_iff f k).mp hk).1
  have hl := ((mem_errorPositions_iff f l).mp hl).1
  have := inverseLocator_inj hp (by omega) (by omega) h
  omega

include hlen

/-- There are at least as many roots as errors. -/
theorem weight_lt_length_of_locatesErrors (hloc : locatesErrors p f lambda) (hconst : lambda.getD 0 0 = 1) :
    weight f < lambda.length := by
  rw [← inverseLocators_length p hlen]
  exact length_lt_of_roots hp (by rw [hconst]; decide) (inverseLocators_nodup hp f)
    (polyEval_of_mem_inverseLocators hloc)

variable (hloc : locatesErrors p f lambda) (hconst : lambda.getD 0 0 = 1) (hlambda : lambda.length ≤ weight f + 1)
include hloc hconst hlambda

theorem polyDegree_of_locatesErrors : polyDegree lambda = weight f := by
  have htake : weight f < (lambda.take (polyDegree lambda + 1)).length :=
    weight_lt_length_of_locatesErrors hp hlen (fun d hd => (polyEval_take_polyDegree _ _ _).trans (hloc d hd))
      (by rw [← polyEval_zero (romOf p), polyEval_take_polyDegree, polyEval_zero, hconst])
  have hle := polyDegree_le lambda
  rw [List.length_take] at htake
  omega

/-- A root that is no inverse locator would be one too many. -/
theorem polyEval_eq_zero_iff_of_locatesErrors {d : Nat} (hd : d < 255) :
    polyEval (romOf p) lambda (rootPow p (254 * d)) = 0 ↔ f.getD d 0 ≠ 0 := by
  refine ⟨fun hroot hnone => ?_, hloc d⟩
  have hnew : rootPow p (254 * d) ∉ inverseLocators p f := fun hmem => by
    obtain ⟨k, hk, heq⟩ := List.mem_map.mp hmem
    obtain ⟨hk, herr⟩ := (mem_errorPositions_iff f k).mp hk
    exact herr (inverseLocator_inj hp (by omega) hd heq ▸ hnone)
  have hmany := length_lt_of_roots hp (f := lambda) (zs := rootPow p (254 * d) :: inverseLocators p f)
    (by rw [hconst]; decide) (List.nodup_cons.mpr ⟨hnew, inverseLocators_nodup hp f⟩)
    (List.forall_mem_cons.mpr ⟨hroot, polyEval_of_mem_inverseLocators hloc⟩)
  rw [List.length_cons, inverseLocators_length p hlen] at hmany
  omega

/-- The Chien search finds the errors. -/
theorem chienSearch_of_locatesErrors : chienSearch (romOf p) lambda = errorPositions f := by
  refine List.filter_congr fun k hk => ?_
  have hroot := polyEval_eq_zero_iff_of_locatesErrors hp hlen hloc hconst hlambda (d := 254 - k) (by omega)
  rw [locatorOf_eq_rootPow hp, ginv_rootPow hp, Bool.eq_iff_iff, beq_iff_eq, bne_iff_ne, hroot]

/-- The roots are simple: a quotient that is zero at its own root would be zero at them all. -/
theorem derivative_ne_zero_of_locatesErrors {d : Nat} (hd : f.getD d 0 ≠ 0) :
    derivativeAt (romOf p) lambda (rootPow p (254 * d)) ≠ 0 := by
  rw [derivativeAt_rootPow hp]
  intro hdouble
  have hroot := hloc d hd
  have hquot : ∀ z ∈ inverseLocators p f,
      polyEval (romOf p) (divideRoot (romOf p) (rootPow p (254 * d)) lambda) z = 0 := by
    intro z hz
    by_cases hzd : z = rootPow p (254 * d)
    · rw [hzd, hdouble]
    · have hz := polyEval_of_mem_inverseLocators hloc z hz
      rw [polyEval_eq_divideRoot hp (rootPow p (254 * d)), hroot] at hz
      exact ((gmul_eq_zero hp _ _).mp (BitVec.xor_zero.symm.trans hz)).resolve_right (mt BitVec.xor_eq_zero_iff.mp hzd)
  have hnone := polyEval_eq_zero_of_roots hp (inverseLocators_nodup hp f)
    (by rw [divideRoot_length, inverseLocators_length p hlen]; omega) hquot 0
  have hzero := polyEval_eq_divideRoot hp (rootPow p (254 * d)) lambda 0
  rw [hnone, hroot, gmul_zero_left, polyEval_zero, hconst] at hzero
  exact absurd hzero (by decide)

end Primitive

/-! ## The error values -/

section Primitive

variable {p : BitVec 9} (hp : isPrimitive p = true) {f syn lambda : List Byte}
  (hsyn : ∀ i < 32, syn.getD i 0 = polyEval (romOf p) f (rootPow p (112 + i))) (hloc : locatesErrors p f lambda)
include hp hsyn hloc

/-- A coefficient of Omega from the quotients of Lambda by `x - 1/X`. -/
theorem errorEvaluator_getD {n : Nat} (hn : n < 32) :
    (errorEvaluator (romOf p) syn lambda).getD n 0 = xorSum f.length fun d =>
      gmul (romOf p) (gmul (romOf p) (f.getD d 0) (rootPow p (111 * d)))
        ((divideRoot (romOf p) (rootPow p (254 * d)) lambda).getD n 0) := by
  have hcoeff : (errorEvaluator (romOf p) syn lambda).getD n 0 =
      xorSum (n + 1) fun i => gmul (romOf p) (lambda.getD i 0) (syn.getD (n - i) 0) := by
    rw [List.getD_eq_getElem _ _ (by simpa [errorEvaluator] using hn)]
    simp only [errorEvaluator, List.getElem_map, List.getElem_range]
    rfl
  have htake : ∀ i < n + 1, lambda.getD i 0 = (lambda.take (n + 1)).getD i 0 := fun i hi => by
    rw [List.getD_eq_getElem?_getD, List.getD_eq_getElem?_getD, List.getElem?_take_of_lt hi]
  rw [hcoeff, xorSum_congr fun i hi => by rw [htake i hi],
    xorSum_syndromes_eq_residual hp hsyn (List.length_take_le ..) le_rfl hn]
  refine xorSum_congr fun d _ => ?_
  by_cases hd : f.getD d 0 = 0
  · rw [hd, gmul_zero_left, gmul_zero_left, gmul_zero_left, gmul_zero_left]
  · have hsplit := (polyEval_take_drop hp lambda (n + 1) (254 * d)).symm.trans (hloc d hd)
    have hexp : d * (112 + n) + 254 * d * (n + 1) = 111 * d + 255 * (d * (n + 1)) := by ring
    rw [divideRoot_getD, BitVec.xor_eq_zero_iff.mp hsplit, gmul_comm _ (polyEval _ _ _), ← gmul_assoc hp,
      gmul_assoc hp (f.getD d 0), gmul_rootPow hp, hexp, rootPow_add_mul hp]

/-- At an inverse locator one term of Omega is left. -/
theorem errorEvaluator_at_inverseLocator (hlen : f.length ≤ 255) (hlambda : lambda.length ≤ 32) {d : Nat}
    (hd : f.getD d 0 ≠ 0) :
    polyEval (romOf p) (errorEvaluator (romOf p) syn lambda) (rootPow p (254 * d)) =
      gmul (romOf p) (gmul (romOf p) (f.getD d 0) (rootPow p (111 * d)))
        (derivativeAt (romOf p) lambda (rootPow p (254 * d))) := by
  have hlt {e : Nat} (he : f.getD e 0 ≠ 0) : e < f.length := Nat.lt_of_not_le fun h => he (List.getD_eq_default _ _ h)
  have hquot (e : Nat) : polyEval (romOf p) (divideRoot (romOf p) (rootPow p (254 * e)) lambda) (rootPow p (254 * d)) =
      xorSum 32 fun n => gmul (romOf p) ((divideRoot (romOf p) (rootPow p (254 * e)) lambda).getD n 0)
        (rootPow p (n * (254 * d))) :=
    polyEval_eq_xorSum hp (by rw [divideRoot_length]; omega) _
  calc polyEval (romOf p) (errorEvaluator (romOf p) syn lambda) (rootPow p (254 * d))
      = xorSum 32 fun n => xorSum f.length fun e =>
          gmul (romOf p) (gmul (romOf p) (f.getD e 0) (rootPow p (111 * e)))
            (gmul (romOf p) ((divideRoot (romOf p) (rootPow p (254 * e)) lambda).getD n 0)
              (rootPow p (n * (254 * d)))) := by
        rw [polyEval_eq_xorSum hp (n := 32) (by simp [errorEvaluator])]
        refine xorSum_congr fun n hn => ?_
        rw [errorEvaluator_getD hp hsyn hloc hn, gmul_comm, gmul_xorSum hp]
        exact xorSum_congr fun e _ => by rw [gmul_comm, gmul_assoc hp]
    _ = xorSum f.length fun e => gmul (romOf p) (gmul (romOf p) (f.getD e 0) (rootPow p (111 * e)))
          (polyEval (romOf p) (divideRoot (romOf p) (rootPow p (254 * e)) lambda) (rootPow p (254 * d))) := by
        rw [xorSum_comm]
        exact xorSum_congr fun e _ => by rw [hquot, gmul_xorSum hp]
    _ = gmul (romOf p) (gmul (romOf p) (f.getD d 0) (rootPow p (111 * d)))
          (derivativeAt (romOf p) lambda (rootPow p (254 * d))) := by
        rw [derivativeAt_rootPow hp]
        refine xorSum_eq_single (hlt hd) fun e _ hed => ?_
        by_cases he : f.getD e 0 = 0
        · rw [he, gmul_zero_left, gmul_zero_left]
        · have hroot := hloc d hd
          have hne : rootPow p (254 * d) ^^^ rootPow p (254 * e) ≠ 0 := fun h =>
            hed (inverseLocator_inj hp ((hlt he).trans_le hlen) ((hlt hd).trans_le hlen)
              (BitVec.xor_eq_zero_iff.mp h).symm)
          rw [polyEval_eq_divideRoot hp (rootPow p (254 * e)), hloc e he] at hroot
          rw [((gmul_eq_zero hp _ _).mp (BitVec.xor_zero.symm.trans hroot)).resolve_right hne, gmul_zero_right]

/-- Forney's formula gives the value of an error. -/
theorem forney_of_locatesErrors (hlen : f.length ≤ 255) (hconst : lambda.getD 0 0 = 1)
    (hlambda : lambda.length ≤ weight f + 1) (hweight : weight f ≤ 16) {k : Nat} (hk : f.getD (254 - k) 0 ≠ 0) :
    forney (romOf p) (errorEvaluator (romOf p) syn lambda) lambda k = some (f.getD (254 - k) 0) := by
  have hden := derivative_ne_zero_of_locatesErrors hp hlen hloc hconst hlambda hk
  have hnum := errorEvaluator_at_inverseLocator hp hsyn hloc hlen (by omega) hk
  have hexp : (254 - k) * (256 - Config.fcr) + 111 * (254 - k) = 0 + 255 * (254 - k) := by
    rw [show 256 - Config.fcr = 144 from rfl]
    ring
  rw [forney, locatorOf_eq_rootPow hp, ginv_rootPow hp, if_neg hden, hnum, gpow_rootPow hp, gdiv_eq_gmul_ginv hp _ hden,
    ← gmul_assoc hp, gmul_assoc hp _ (derivativeAt _ _ _), gmul_ginv hp hden, gmul_one_right hp, gmul_left_comm hp,
    gmul_rootPow hp, hexp, rootPow_add_mul hp, rootPow_zero, gmul_one_right hp]

end Primitive

end Sys2Proof.Machine
end

section
/-! PROOFS. The contract of the corrector (O46): with a codeword within distance 16 the three algorithms together find
the positions and values of the errors, and adding the values gives the codeword. -/

namespace Sys2Proof.Machine

/-! ## The error positions with their values -/

/-- Each CW index of an error, with its value. -/
def errorsOf (f : List Byte) : List (Nat × Byte) := (errorPositions f).map fun k => (k, f.getD (254 - k) 0)

/-- A shortened word has no error at an index below pad. -/
theorem errorPositions_ge {f : List Byte} {pad : Nat} (hlen : f.length + pad ≤ 255) :
    ∀ k ∈ errorPositions f, pad ≤ k := by
  intro k hk
  by_contra hlt
  exact ((mem_errorPositions_iff f k).mp hk).2 (List.getD_eq_default _ _ (by omega))

/-- Where none of the failure checks of R169 holds, the roots and Forney's values are answered. -/
theorem locateErrors_of_checks {rom : Rom} {pad : Nat} {syn : List Byte} {st : Locator} {e : List Nat}
    {value : Nat → Byte} (hst : berlekampMassey rom syn = st) (he : chienSearch rom st.lambda = e)
    (hcount : e.length ≤ 16) (hdeg : polyDegree st.lambda = e.length) (hL : st.len = e.length)
    (hpad : ∀ k ∈ e, pad ≤ k)
    (hvalue : ∀ k ∈ e, forney rom (errorEvaluator rom syn st.lambda) st.lambda k = some (value k))
    (hne : ∀ k ∈ e, value k ≠ 0) : locateErrors rom pad syn = some (e.map fun k => (k, value k)) := by
  have hchecks :
      ¬ (e.length > Config.t ∨ e.length ≠ e.length ∨ e.length ≠ e.length ∨ e.any (· < pad) = true) := by
    rintro (h | h | h | h)
    · exact h.not_ge hcount
    · exact h rfl
    · exact h rfl
    · obtain ⟨k, hk, hlt⟩ := List.any_eq_true.mp h
      exact absurd (of_decide_eq_true hlt) (hpad k hk).not_gt
  have hvalues : e.map (forney rom (errorEvaluator rom syn st.lambda) st.lambda) = e.map fun k => some (value k) :=
    List.map_congr_left hvalue
  have hall : (e.map fun k => some (value k)).all (fun y => y != none && y != some 0) = true := by
    rw [List.all_map, List.all_eq_true]
    intro k hk
    simpa using hne k hk
  unfold locateErrors
  dsimp only
  rw [hst, he, hdeg, hL, hvalues, if_neg hchecks, if_pos hall, List.map_map]
  exact congrArg some (List.map_prod_left_eq_zip ..).symm

theorem locateErrors_eq_errorsOf {p : BitVec 9} (hp : isPrimitive p = true) {f syn : List Byte} {pad : Nat}
    (hsyn : ∀ i < 32, syn.getD i 0 = polyEval (romOf p) f (rootPow p (112 + i))) (hlen : f.length + pad ≤ 255)
    (hweight : weight f ≤ 16) : locateErrors (romOf p) pad syn = some (errorsOf f) := by
  have hf : f.length ≤ 255 := by omega
  have hinv := Locator.Inv.berlekampMassey hp hf hsyn
  have hloc := hinv.locatesErrors hp hf hweight
  have hconst := hinv.lambdaConst
  have hlower := weight_lt_length_of_locatesErrors hp hf hloc hconst
  have hupper := hinv.lambdaLength
  have hL : (berlekampMassey (romOf p) syn).len = weight f := by
    have := hinv.lenLeWeight
    omega
  rw [hL] at hupper
  have hcount := errorPositions_length hf
  exact locateErrors_of_checks rfl (chienSearch_of_locatesErrors hp hf hloc hconst hupper) (hcount.trans_le hweight)
    ((polyDegree_of_locatesErrors hp hf hloc hconst hupper).trans hcount.symm) (hL.trans hcount.symm)
    (errorPositions_ge hlen)
    (fun k hk => forney_of_locatesErrors hp hsyn hloc hf hconst hupper hweight ((mem_errorPositions_iff f k).mp hk).2)
    (fun k hk => ((mem_errorPositions_iff f k).mp hk).2)

/-! ## Adding the values -/

theorem applyErrors_getElem (pad : Nat) (value : Nat → Byte) {ks : List Nat} (hnodup : ks.Nodup)
    (hlow : ∀ k ∈ ks, pad ≤ k) (word : List Byte) {i : Nat} (hi : i < word.length)
    (hi' : i < (applyErrors pad word (ks.map fun k => (k, value k))).length) :
    (applyErrors pad word (ks.map fun k => (k, value k)))[i] =
      word[i] ^^^ if pad + i ∈ ks then value (pad + i) else 0 := by
  induction ks generalizing word with
  | nil => simp [applyErrors]
  | cons k ks ih =>
    obtain ⟨hk, hnodup⟩ := List.nodup_cons.mp hnodup
    have hkpad := hlow k List.mem_cons_self
    have hrest := ih hnodup (fun l hl => hlow l (List.mem_cons_of_mem k hl)) (word.modify (k - pad) (· ^^^ value k))
      (by rwa [List.length_modify]) hi'
    refine hrest.trans ?_
    rw [List.getElem_modify]
    by_cases hik : k = pad + i
    · subst hik
      rw [if_pos (by omega), if_neg hk, if_pos List.mem_cons_self]
      exact BitVec.xor_zero
    · rw [if_neg (by omega)]
      simp only [List.mem_cons, Ne.symm hik, false_or]

theorem difference_getD {u v : List Byte} (hlen : v.length = u.length) {i : Nat} (hi : i < u.length) :
    (difference u v).getD (u.length - 1 - i) 0 = u[i] ^^^ v[i] := by
  rw [List.getD_eq_getElem _ _ (by rw [difference_length hlen]; omega)]
  simp only [difference, List.getElem_reverse, List.getElem_zipWith, List.length_zipWith, hlen, Nat.min_self]
  congr <;> omega

/-- The errors taken away leave the codeword. -/
theorem applyErrors_errorsOf_difference {pad : Nat} {word code : List Byte} (hpad : pad ≤ 223)
    (hword : word.length = 255 - pad) (hlen : code.length = word.length) :
    applyErrors pad word (errorsOf (difference word code)) = code := by
  have hlow := errorPositions_ge (f := difference word code) (pad := pad) (by rw [difference_length hlen]; omega)
  refine List.ext_getElem ((applyErrors_length ..).trans hlen.symm) fun i hi hi' => ?_
  have hiw : i < word.length := hlen ▸ hi'
  have hvalue : (difference word code).getD (254 - (pad + i)) 0 = word[i] ^^^ code[i] := by
    rw [← difference_getD hlen hiw]
    congr 1
    omega
  have hterm : (if pad + i ∈ errorPositions (difference word code) then
      (difference word code).getD (254 - (pad + i)) 0 else 0) = word[i] ^^^ code[i] := by
    rw [← hvalue]
    split
    · rfl
    · next hk => exact (not_not.mp fun hne => hk ((mem_errorPositions_iff _ _).mpr ⟨by omega, hne⟩)).symm
  refine (applyErrors_getElem pad _ (errorPositions_nodup _) hlow word hiw hi).trans ?_
  rw [hterm, ← BitVec.xor_assoc, BitVec.xor_self, BitVec.zero_xor]

/-- Settles O46: the difference to the codeword has the syndromes of the word, as the codeword has none. -/
theorem correctorFindsEveryNearbyCodeword : Obligations.CorrectorFindsEveryNearbyCodeword := by
  intro p pad word code hp hpad hword hcode hnear
  have hlen : code.length = word.length := hcode.1.trans hword.symm
  have hsyn : ∀ i < 32, (syndromes (romOf p) word).toList.getD i 0 =
      polyEval (romOf p) (difference word code) (rootPow p (112 + i)) := fun i hi => by
    rw [polyEval_difference_of_inCode hp hcode hword hi, List.getD_eq_getElem _ _ (by simpa using hi),
      Vector.getElem_toList, getElem_syndromes]
  have hfound := locateErrors_eq_errorsOf hp hsyn (pad := pad) (by rw [difference_length hlen]; omega)
    ((weight_difference word code).trans_le hnear)
  unfold decodeWord
  rw [hfound]
  dsimp only
  rw [applyErrors_errorsOf_difference hpad hword hlen]
  exact if_pos ⟨(allZero_syndromes_iff _ code).mpr hcode.2, hnear⟩

end Sys2Proof.Machine
end

section
/-! PROOFS. The validator's instructions on an idle block that has it (O47 to O49). -/

namespace Sys2Proof.Machine

section Idle

variable {s : State} (hr : s.ready) (hk : s.cfg.hasChk = true)
include hr hk

/-- The checks before a validator command pass on an idle block with the validator (43_checksum R192, R198). -/
theorem unlessBusy_withChkCommand_of_idle (a b : BusWrite) (r : Result) :
    unlessBusy a s (withChkCommand b s r) = r :=
  (unlessBusy_of_ready hr a _).trans (withChkCommand_of_present hk b r)

theorem exec_chkData_of_closed (hclosed : s.status.chkActive = false) (data : Word) :
    exec (.chkData data) s = .next (s.rejected .notActive (accessInfo ⟨0x040, .four, data⟩)) :=
  (if_pos hk).trans ((unlessBusy_of_ready hr _ _).trans (if_neg (ne_true_of_eq_false hclosed)))

/-- While a package is open a byte does what the parser says of its position (43_checksum R193). -/
theorem exec_chkData_of_parseByte (hopen : s.status.chkActive = true) {n : Nat}
    (hn : s.chkCount.toNat = n) {data : Word} {t : State} (h : s.parseByte n (byteOperand data) = t) :
    exec (.chkData data) s = .next { t with chkCount := s.chkCount + 1 }.settleIrq := by
  rw [← feedPackage_of_parseByte (hn ▸ h)]
  exact (if_pos hk).trans ((unlessBusy_of_ready hr _ _).trans (if_pos hopen))

end Idle

theorem chkInitOpcode_mem_commandTable : (0x40, 0xFFFFFF00) ∈ commandTable true := by decide

theorem chkSetmaxOpcode_mem_commandTable : (0x41, 0x0000FF00) ∈ commandTable true := by decide

/-- Settles O47: the checks pass, and the body is the whole next state. -/
theorem chkInitOpensPackage : Obligations.ChkInitOpensPackage := fun _ hr hk =>
  ⟨unlessBusy_withChkCommand_of_idle hr hk _ _ _, reservedBitsRejected_of_mem hr (hk ▸ chkInitOpcode_mem_commandTable)⟩

/-- Settles O48: after the checks the bound CHK_CAP decides. -/
theorem chkSetmaxBoundsSize : Obligations.ChkSetmaxBoundsSize := by
  intro size s hr hk
  have hrun : exec (.chkSetmax size) s = _ := unlessBusy_withChkCommand_of_idle hr hk _ _ _
  rw [hrun]
  exact ⟨fun hfits => if_pos (decide_eq_true hfits),
    fun hexceeds => if_neg (ne_true_of_eq_false (decide_eq_false (Nat.not_le_of_gt hexceeds))),
    reservedBitsRejected_of_mem hr (hk ▸ chkSetmaxOpcode_mem_commandTable)⟩

/-- The verdict once the echo byte is in the trailer: the echo decides CHK_ECHO_MATCH only (43_checksum R196, R199). -/
theorem State.verdict_setHighByte (s : State) (d : Byte) :
    ({ s with chkTrailer := setHighByte s.chkTrailer d } : State).verdict =
      { s with
        chkTrailer := setHighByte s.chkTrailer d
        status := { s.status with
          chkEchoMatch := d == s.chkTrailer.extractLsb' 0 8
          chkRes :=
            if s.cfg.compareMode = .self ∨ s.chkSum = s.chkTrailer.extractLsb' 0 8 then .pass else .checksumFailure
          chkActive := false } } := by
  simp only [State.verdict, extract_high_setHighByte, extract_low_setHighByte, packagePasses_iff]

/-- The low byte of a 16-bit register as a number. -/
theorem extract_low_eq (v : BitVec 16) : v.extractLsb' 0 8 = BitVec.ofNat 8 (v.toNat % 256) := by
  apply BitVec.eq_of_toNat_eq
  simp

/-- The length once its high byte is in, as a number (43_checksum R194). -/
theorem toNat_setHighByte (v : BitVec 16) (d : Byte) : (setHighByte v d).toNat = d.toNat * 256 + v.toNat % 256 := by
  rw [setHighByte_eq, BitVec.toNat_ofNat]
  omega

/-- Settles O49: by the position of the byte, each with its lemma about the parser. -/
theorem chkDataFeedsOneByte : Obligations.ChkDataFeedsOneByte := by
  intro data s hr hk
  simp only [← byteOperand_eq, ← setLowByte_eq, ← setHighByte_eq, ← extract_low_eq]
  refine ⟨fun hclosed => exec_chkData_of_closed hr hk hclosed data, fun hopen => ?_⟩
  have feeds {n : Nat} (hn : s.chkCount.toNat = n) {t : State} (h : s.parseByte n (byteOperand data) = t) :=
    exec_chkData_of_parseByte hr hk hopen hn h
  refine ⟨fun hn => feeds hn (s.parseByte_zero _), fun hn => feeds hn (s.parseByte_one _),
    fun hn => feeds hn (s.parseByte_two _), fun hn => ⟨fun hfits => ?_, fun hexceeds => ?_⟩,
    fun hlow hhigh => feeds rfl (s.parseByte_payload _ hlow (by omega)),
    fun hn => feeds hn (s.parseByte_checksum _ rfl),
    fun hn => feeds hn ((s.parseByte_echo _ rfl).trans (s.verdict_setHighByte _))⟩
  · rw [← toNat_setHighByte] at hfits
    exact feeds hn ((s.parseByte_three _).trans (State.sizeGuard_of_fits hfits))
  · rw [← toNat_setHighByte] at hexceeds
    exact feeds hn ((s.parseByte_three _).trans (State.sizeGuard_of_exceeds hexceeds))

end Sys2Proof.Machine
end

section
/-! PROOFS. The frame of the validator's instructions, of NOP and of CLR_STATUS (O54). -/

namespace Sys2Proof.Machine

/-- A rejected write in the form of an update: the error record and irq (60_exceptions R240, R241). -/
theorem State.rejected_update (s : State) (code : ErrCode) (info : Word) :
    ∃ err errCode errInfo irq, s.rejected code info =
      { s with status := { s.status with err := err, errCode := errCode }, errInfo := errInfo, irq := irq } := by
  unfold State.rejected State.capture
  split
  · exact ⟨_, _, _, _, rfl⟩
  · exact ⟨_, _, _, _, rfl⟩

/-- A package byte in the form of an update, whatever its position: the registers of the validator but CHK_MAX, and
STATUS[10:7] (43_checksum R193). -/
theorem State.feedPackage_update (s : State) (d : Byte) :
    ∃ sum id len count trailer active res echo, s.feedPackage d = { s with
      chkSum := sum, chkId := id, chkLen := len, chkCount := count, chkTrailer := trailer,
      status := { s.status with chkActive := active, chkRes := res, chkEchoMatch := echo } } := by
  unfold State.feedPackage State.parseByte State.sizeGuard
  split_ifs <;> exact ⟨_, _, _, _, _, _, _, _, rfl⟩

/-- Settles O54: an instruction rejects its write or has its effect, and either is an update of the fields that the
frame names. -/
theorem frameOfValidatorAndStatusInstructions : Obligations.FrameOfValidatorAndStatusInstructions := by
  intro i s t h
  rcases exec_cases h with ⟨code, info, -, rfl⟩ | ⟨-, rfl⟩
  · obtain ⟨err, errCode, errInfo, irq, hupdate⟩ := s.rejected_update code info
    rw [hupdate]
    exact ⟨fun _ _ => ⟨rfl, rfl, fun _ => rfl⟩, fun _ _ => ⟨rfl, rfl, fun _ => rfl⟩,
      fun _ _ => ⟨rfl, by simp only [ite_self], fun _ => rfl⟩⟩
  · refine ⟨fun data hi => ?_, fun size hi => ?_, fun mask hi => ?_⟩
    · simp only [List.mem_cons, List.not_mem_nil, or_false] at hi
      rcases hi with rfl | rfl
      · exact ⟨rfl, rfl, fun _ => rfl⟩
      · obtain ⟨sum, id, len, count, trailer, active, res, echo, hupdate⟩ := s.feedPackage_update (byteOperand data)
        rw [effect, hupdate]
        exact ⟨rfl, rfl, fun _ => rfl⟩
    · subst hi
      exact ⟨rfl, rfl, fun _ => rfl⟩
    · simp only [List.mem_cons, List.not_mem_nil, or_false] at hi
      rcases hi with rfl | rfl
      · exact ⟨rfl, rfl, fun _ => rfl⟩
      · rw [effect, s.clearStatus_eq mask]
        exact ⟨rfl, rfl, fun _ => rfl⟩

end Sys2Proof.Machine
end

section
/-! PROOFS. A whole Data Package from CHK_INIT to its verdict (O50). -/

namespace Sys2Proof.Machine

/-- The state with a package open in which n bytes have been taken, irq apart (43_checksum R192, R193). -/
def State.parsing (s : State) (n : Nat) (id len trailer : BitVec 16) (sum : Byte) : State := { s with
  chkCount := BitVec.ofNat 17 n, chkId := id, chkLen := len, chkTrailer := trailer, chkSum := sum,
  status := { s.status with chkActive := true, chkRes := .none, chkEchoMatch := false } }

/-- The writes that feed a package, one for each byte. -/
def feedBytes (bytes : List Byte) : List Instr := bytes.map fun d => .chkData (d.setWidth 32)

/-- Both bytes of a 16-bit register written, the low one first (20_memory R69). -/
theorem toNat_setHighByte_setLowByte (v : BitVec 16) (low high : Byte) :
    (setHighByte (setLowByte v low) high).toNat = low.toNat + 256 * high.toNat := by
  rw [toNat_setHighByte, setLowByte_eq, BitVec.toNat_ofNat]
  omega

theorem extract_low_setLowByte (v : BitVec 16) (d : Byte) : (setLowByte v d).extractLsb' 0 8 = d := by
  apply BitVec.eq_of_toNat_eq
  rw [extract_low_eq, setLowByte_eq, BitVec.toNat_ofNat, BitVec.toNat_ofNat]
  have := d.isLt
  omega

section Idle

variable {s : State} (hr : s.ready) (hk : s.cfg.hasChk = true)
include hr hk

/-- A byte at position n of an open package is parsed and counted. -/
theorem exec_chkData_of_parsing {n : Nat} (hn : n ≤ 65541) {id len trailer : BitVec 16} {sum d : Byte} {t : State}
    (h : (s.parsing n id len trailer sum).settleIrq.parseByte n d = t) :
    exec (.chkData (d.setWidth 32)) (s.parsing n id len trailer sum).settleIrq =
      .next { t with chkCount := BitVec.ofNat 17 (n + 1) }.settleIrq := by
  have hcount : (BitVec.ofNat 17 n).toNat = n := by
    rw [BitVec.toNat_ofNat]
    omega
  rw [← byteOperand_setWidth d] at h
  rw [BitVec.ofNat_add]
  exact exec_chkData_of_parseByte (s := (s.parsing n id len trailer sum).settleIrq) hr hk rfl hcount h

/-- CHK_INIT and the header of a package that fits CHK_MAX (43_checksum R192 to R194). -/
theorem execAll_header (idLow idHigh lenLow lenHigh : Byte)
    (hfits : 4 + (lenLow.toNat + 256 * lenHigh.toNat) + 2 ≤ s.chkMax.toNat) (is : List Instr) :
    execAll (.chkInit :: (feedBytes [idLow, idHigh, lenLow, lenHigh] ++ is)) s =
      execAll is (s.parsing 4 (setHighByte (setLowByte 0 idLow) idHigh) (setHighByte (setLowByte 0 lenLow) lenHigh) 0
        (byteSum [idLow, idHigh, lenLow, lenHigh])).settleIrq := by
  have hopens : exec .chkInit s = .next (s.parsing 0 0 0 0 0).settleIrq :=
    unlessBusy_withChkCommand_of_idle hr hk _ _ _
  refine (execAll_cons hopens _).trans ?_
  refine (execAll_cons (exec_chkData_of_parsing hr hk (by decide) (State.parseByte_zero _ _)) _).trans ?_
  refine (execAll_cons (exec_chkData_of_parsing hr hk (n := 1) (by decide) (State.parseByte_one _ _)) _).trans ?_
  refine (execAll_cons (exec_chkData_of_parsing hr hk (n := 2) (by decide) (State.parseByte_two _ _)) _).trans ?_
  rw [← toNat_setHighByte_setLowByte 0] at hfits
  exact execAll_cons (exec_chkData_of_parsing hr hk (n := 3) (by decide)
    ((State.parseByte_three _ _).trans (State.sizeGuard_of_fits hfits))) _

/-- The payload is added to the sum, byte by byte (43_checksum R193). -/
theorem execAll_payload (payload : List Byte) {n : Nat} {id len trailer : BitVec 16} (sum : Byte) (hlow : 4 ≤ n)
    (hhigh : n + payload.length ≤ 4 + len.toNat) (is : List Instr) :
    execAll (feedBytes payload ++ is) (s.parsing n id len trailer sum).settleIrq =
      execAll is (s.parsing (n + payload.length) id len trailer (payload.foldl (· + ·) sum)).settleIrq := by
  induction payload generalizing n sum with
  | nil => rfl
  | cons d payload ih =>
    rw [List.length_cons, Nat.add_comm payload.length, ← Nat.add_assoc] at hhigh ⊢
    have hlen := len.isLt
    have hfeed := exec_chkData_of_parsing hr hk (by omega) (State.parseByte_payload
      (s.parsing n id len trailer sum).settleIrq d hlow (show n < 4 + len.toNat by omega))
    exact (execAll_cons hfeed _).trans (ih (n := n + 1) (sum + d) (by omega) (by omega))

/-- The checksum byte is stored, and the echo byte brings the verdict (43_checksum R196). -/
theorem execAll_trailer {n : Nat} {id len : BitVec 16} (sum checksum echo : Byte) (hn : n = 4 + len.toNat) :
    execAll (feedBytes [checksum, echo]) (s.parsing n id len 0 sum).settleIrq =
      .next { s.parsing (n + 2) id len (setHighByte (setLowByte 0 checksum) echo) sum with
        status := { s.status with
          chkActive := false
          chkEchoMatch := echo == checksum
          chkRes := if s.cfg.compareMode = CompareMode.self ∨ sum = checksum then .pass else .checksumFailure }
        }.settleIrq := by
  have hlen := len.isLt
  have hstored := exec_chkData_of_parsing hr hk (by omega)
    (State.parseByte_checksum (s.parsing n id len 0 sum).settleIrq checksum hn)
  have hjudged := exec_chkData_of_parsing hr hk (by omega)
    ((State.parseByte_echo (s.parsing (n + 1) id len (setLowByte 0 checksum) sum).settleIrq echo
      (show n + 1 = 5 + len.toNat by omega)).trans (State.verdict_setHighByte _ _))
  have hchecksum : (s.parsing (n + 1) id len (setLowByte 0 checksum) sum).settleIrq.chkTrailer.extractLsb' 0 8 =
      checksum := extract_low_setLowByte 0 checksum
  rw [hchecksum] at hjudged
  exact (execAll_cons hstored _).trans (execAll_cons hjudged [])

end Idle

theorem feedBytes_packageBytes (idLow idHigh lenLow lenHigh : Byte) (payload : List Byte) (checksum echo : Byte) :
    feedBytes (packageBytes idLow idHigh lenLow lenHigh payload checksum echo) =
      feedBytes [idLow, idHigh, lenLow, lenHigh] ++ (feedBytes payload ++ feedBytes [checksum, echo]) := by
  simp only [feedBytes, packageBytes, List.map_append, List.append_assoc]

/-- Settles O50: the package opens, takes its header and its payload, and the trailer closes it with the verdict. -/
theorem wholePackageVerdict : Obligations.WholePackageVerdict := by
  intro s idLow idHigh lenLow lenHigh payload checksum echo hr hk hlen hfits bytes sum
  have hlenReg := (toNat_setHighByte_setLowByte 0 lenLow lenHigh).trans hlen.symm
  have hheader := execAll_header hr hk idLow idHigh lenLow lenHigh (hlen ▸ hfits)
    (feedBytes payload ++ feedBytes [checksum, echo])
  have hpayload := execAll_payload hr hk payload (id := setHighByte (setLowByte 0 idLow) idHigh) (trailer := 0)
    (byteSum [idLow, idHigh, lenLow, lenHigh]) le_rfl (congrArg (4 + ·) hlenReg).ge (feedBytes [checksum, echo])
  have hsum : payload.foldl (· + ·) (byteSum [idLow, idHigh, lenLow, lenHigh]) = sum := List.foldl_append.symm
  have htrailer := execAll_trailer hr hk (id := setHighByte (setLowByte 0 idLow) idHigh) sum checksum echo
    (congrArg (4 + ·) hlenReg.symm)
  rw [← feedBytes_packageBytes] at hheader
  rw [hsum] at hpayload
  refine ⟨_, hheader.trans (hpayload.trans htrailer), toNat_setHighByte_setLowByte 0 idLow idHigh, hlenReg, ?_,
    rfl, rfl, rfl, rfl, rfl, rfl⟩
  have hmax := s.chkMax.isLt
  show (BitVec.ofNat 17 (4 + payload.length + 2)).toNat = 4 + payload.length + 2
  rw [BitVec.toNat_ofNat]
  omega

end Sys2Proof.Machine
end

section
/-! PROOFS. NOP, CLR_STATUS and the writes of CTRL and of the GF registers on an idle block (O15, O22 to O24), and the
reset of the registers (O20). -/

namespace Sys2Proof.Machine

/-! ## On an idle block -/

theorem nopOpcode_mem_commandTable : ∀ hasChk : Bool, (0x00, 0xFFFFFF00) ∈ commandTable hasChk := by decide

theorem softResetOpcode_mem_commandTable : ∀ hasChk : Bool, (0x01, 0xFFFFFF00) ∈ commandTable hasChk := by decide

theorem clrStatusOpcode_mem_commandTable : ∀ hasChk : Bool, (0x02, 0xFFFFF800) ∈ commandTable hasChk := by decide

/-- Settles O22: past the busy rule only irq is recomputed. -/
theorem nopHasNoEffect : Obligations.NopHasNoEffect := fun _ hr =>
  ⟨exec_nop_of_ready hr, reservedBitsRejected_of_mem hr (nopOpcode_mem_commandTable _)⟩

/-- Settles O15: the effect of CLR_STATUS, field by field, then irq for the new status. -/
theorem clearStatusClearsByMask : Obligations.ClearStatusClearsByMask := by
  intro mask s hr st
  refine ⟨?_, reservedBitsRejected_of_mem hr (clrStatusOpcode_mem_commandTable _)⟩
  rw [exec_clrStatus_of_ready hr, s.clearStatus_eq mask, complete_eq]
  rfl

/-- Settles O24: each of the three ports stores the byte operand. -/
theorem gfRegisterWritesStoreLowByte : Obligations.GfRegisterWritesStoreLowByte := by
  intro data s hr
  rw [← byteOperand_eq]
  exact ⟨exec_wrGfA_of_ready hr data, unlessBusy_of_ready hr _ _, unlessBusy_of_ready hr _ _⟩

/-- The bits that CTRL stores: IE_CHK only with the validator (10_state R28, 44_control R213). -/
theorem getLsbD_storedCtrl (hasChk : Bool) (data : Word) :
    (storedCtrl hasChk data).getLsbD 0 = data.getLsbD 0 ∧ (storedCtrl hasChk data).getLsbD 1 = data.getLsbD 1 ∧
      (storedCtrl hasChk data).getLsbD 2 = (hasChk && data.getLsbD 2) := by
  cases hasChk <;> simp [storedCtrl, ctrlOperand]

/-- Settles O23: the stored bits, then irq for the new CTRL. -/
theorem ctrlWriteStoresThreeBits : Obligations.CtrlWriteStoresThreeBits := fun data s hr =>
  ⟨_, unlessBusy_of_ready hr _ _, rfl, getLsbD_storedCtrl s.cfg.hasChk data⟩

/-! ## SOFT_RESET and the reset input -/

/-- Any word but 1 with the opcode of SOFT_RESET has a required-zero bit set (30_encoding R84). -/
theorem decodeWrite_of_inexactReset {w : Word} (hopc : opcOf w = 0x01) (hw : w ≠ 0x00000001) (hasChk : Bool) :
    decodeWrite hasChk (commandWrite w) = .error .rsvdArg := by
  have hplain : decodeCommand hasChk w = plainCmd w .softReset := by simp [decodeCommand, hopc]
  have hargs : ¬ (argAOf w = 0 ∧ argBOf w = 0) := fun ⟨hargA, hargB⟩ => hw <| by
    rw [← cmdWord_fields w, hopc, hargA, hargB]
    rfl
  rw [decodeWrite_command, hplain, plainCmd, if_neg hargs]

/-- Required-zero bits are checked only past the busy rule (60_exceptions R244 steps 4 and 5). -/
theorem busWrite_of_rsvdArg_of_busy {s : State} (hb : s.status.busy = true) {a : BusWrite}
    (h : decodeWrite s.cfg.hasChk a = .error .rsvdArg) :
    busWrite a s = .next (s.rejected .busy (accessInfo a)) := by
  simp only [busWrite, h, unlessBusy_of_busy hb]

theorem irqLevel_reset : irqLevel State.reset.ctrl State.reset.status = false := by decide

theorem complete_resetRegisters (s : State) : complete s.resetRegisters = .next s.resetRegisters := by
  rw [complete_eq, State.settleIrq, State.resetRegisters_ctrl, State.resetRegisters_status, irqLevel_reset]
  rfl

/-- Settles O20: both resets complete in the state with the registers reset, where the formula of irq gives 0. -/
theorem resetForcesEveryRegister : Obligations.ResetForcesEveryRegister := fun s =>
  ⟨complete_resetRegisters s, complete_resetRegisters s,
    fun hr => reservedBitsRejected_of_mem hr (softResetOpcode_mem_commandTable _),
    fun hb _ hopc hw => busWrite_of_rsvdArg_of_busy hb (decodeWrite_of_inexactReset hopc hw _)⟩

end Sys2Proof.Machine
end

section
/-! PROOFS. WR_CW: the byte that it stores (O25), and its frame (O55). -/

namespace Sys2Proof.Machine

/-- The byte stored is read back, whether or not CW[k] was written since power-up (44_control R215). -/
theorem cwByte_effect_wrCw_same (s : State) (k : Byte) (data : Word) :
    (effect (.wrCw k data) s).cwByte k.toNat = byteOperand data :=
  State.cwByte_of_read (Memory.read_write_same s.cw k.toNat (byteOperand data))

theorem cwByte_effect_wrCw_other (s : State) {k : Byte} (data : Word) {j : Nat} (h : j ≠ k.toNat) :
    (effect (.wrCw k data) s).cwByte j = s.cwByte j :=
  State.cwByte_congr_read (Memory.read_write_other s.cw (byteOperand data) h) rfl

/-- Settles O55: the write is rejected, which keeps the buffer, or stores its one byte. -/
theorem frameOfCwWrite : Obligations.FrameOfCwWrite := by
  intro k data s t h
  rcases exec_cases h with ⟨code, info, -, rfl⟩ | ⟨-, rfl⟩
  · obtain ⟨hframe, hstatus, hbuffer⟩ := s.rejected_frame code info
    refine ⟨?_, hstatus, fun j _ => hbuffer j⟩
    rw [State.rejected_cw]
    exact hframe
  · exact ⟨rfl, rfl, fun j hj => cwByte_effect_wrCw_other s data hj⟩

theorem exec_wrCw_of_ready {s : State} (hr : s.ready) {k : Byte} (hk : k ≠ 255) (data : Word) :
    exec (.wrCw k data) s = .next (effect (.wrCw k data) s).settleIrq :=
  (if_neg hk).trans (unlessBusy_of_ready hr _ _)

/-- Settles O25: a byte of CW is stored; the index 255 has no byte, and its offset 0x7FC is unmapped. -/
theorem cwWriteStoresOneByte : Obligations.CwWriteStoresOneByte := by
  intro k data s hr
  rw [← byteOperand_eq]
  refine ⟨fun hk => ⟨_, exec_wrCw_of_ready hr hk data, cwByte_effect_wrCw_same s k data,
    fun j hj => cwByte_effect_wrCw_other s data hj, rfl⟩, fun hk => ⟨?_, if_pos hk⟩⟩
  exact busWrite_of_unmapped (regAt_cwOffset_255 s.cfg.hasChk) .four data

end Sys2Proof.Machine
end

section
/-! PROOFS. The bits of STATUS (O16). -/

namespace Sys2Proof.Machine

theorem regAt_status (hasChk : Bool) : regAt hasChk 0x018 = some .status := by cases hasChk <;> decide

/-! ## Bits [10:0], the flags -/

/-- The fields of the validator, STATUS[10:7] (10_state R53). -/
def checkFlags (hasChk : Bool) (st : Status) : BitVec 4 :=
  if hasChk then (BitVec.ofBool st.chkEchoMatch ++ st.chkRes.code) ++ BitVec.ofBool st.chkActive else 0

/-- The flags stand below the fields of the validator, one bit after the other. -/
theorem statusFlags_eq (hasChk : Bool) (st : Status) :
    statusFlags hasChk st =
      (((((((checkFlags hasChk st).concat st.decFail).concat st.synZero).concat st.pvalid).concat st.encActive).concat
        st.err).concat st.done).concat st.busy := rfl

/-- The three fields of STATUS[10:7], read back from their concatenation. -/
theorem checkFlags_fields_of_append : ∀ (echo active : Bool) (res : BitVec 2),
    let chk := (BitVec.ofBool echo ++ res) ++ BitVec.ofBool active
    chk.getLsbD 0 = active ∧ chk.extractLsb' 1 2 = res ∧ chk.getLsbD 3 = echo := by
  decide

theorem checkFlags_fields (hasChk : Bool) (st : Status) :
    (checkFlags hasChk st).getLsbD 0 = (hasChk && st.chkActive) ∧
      (checkFlags hasChk st).extractLsb' 1 2 = (if hasChk then st.chkRes.code else 0) ∧
      (checkFlags hasChk st).getLsbD 3 = (hasChk && st.chkEchoMatch) := by
  cases hasChk with
  | false => simp [checkFlags]
  | true => exact checkFlags_fields_of_append st.chkEchoMatch st.chkActive st.chkRes.code

theorem getLsbD_statusFlags (hasChk : Bool) (st : Status) :
    let flags := statusFlags hasChk st
    flags.getLsbD 0 = st.busy ∧ flags.getLsbD 1 = st.done ∧ flags.getLsbD 2 = st.err ∧
      flags.getLsbD 3 = st.encActive ∧ flags.getLsbD 4 = st.pvalid ∧ flags.getLsbD 5 = st.synZero ∧
      flags.getLsbD 6 = st.decFail ∧ ∀ i, flags.getLsbD (i + 7) = (checkFlags hasChk st).getLsbD i := by
  simp [statusFlags_eq, BitVec.getLsbD_concat, -BitVec.getLsbD_eq_getElem]

/-! ## The word -/

/-- Bits [10:0] of STATUS are the flags (44_control R218). -/
theorem getLsbD_statusWord_of_flag (hasChk : Bool) (st : Status) (irq : Bool) {i : Nat} (h : i < 11) :
    (statusWord hasChk st irq).getLsbD i = (statusFlags hasChk st).getLsbD i := by
  rw [statusWord, BitVec.getLsbD_append, if_pos h]

theorem extract_statusWord_chkRes (hasChk : Bool) (st : Status) (irq : Bool) :
    (statusWord hasChk st irq).extractLsb' 8 2 = (checkFlags hasChk st).extractLsb' 1 2 := by
  rw [statusWord, BitVec.extractLsb'_append_eq_of_add_le (by decide), statusFlags]
  iterate 7 rw [BitVec.extractLsb'_append_eq_of_le (by decide)]
  rfl

theorem getLsbD_statusWord_irq (hasChk : Bool) (st : Status) (irq : Bool) :
    (statusWord hasChk st irq).getLsbD 11 = irq := by
  rw [statusWord, BitVec.getLsbD_append, if_neg (by decide), BitVec.getLsbD_append, if_pos (by decide)]
  simp

theorem extract_statusWord_gap (hasChk : Bool) (st : Status) (irq : Bool) :
    (statusWord hasChk st irq).extractLsb' 12 4 = 0 := by
  rw [statusWord, BitVec.extractLsb'_append_eq_of_le (by decide), BitVec.extractLsb'_append_eq_of_le (by decide)]
  exact BitVec.extractLsb'_append_eq_right

theorem extract_statusWord_errCode (hasChk : Bool) (st : Status) (irq : Bool) :
    (statusWord hasChk st irq).extractLsb' 16 8 = st.errCode.code := by
  rw [statusWord]
  iterate 3 rw [BitVec.extractLsb'_append_eq_of_le (by decide)]
  exact BitVec.extractLsb'_append_eq_right

theorem extract_statusWord_top (hasChk : Bool) (st : Status) (irq : Bool) :
    (statusWord hasChk st irq).extractLsb' 24 8 = 0 := by
  rw [statusWord]
  iterate 3 rw [BitVec.extractLsb'_append_eq_of_le (by decide)]
  exact BitVec.extractLsb'_append_eq_left

/-- Settles O16: STATUS is read exactly, as it is not in JOBSET, and its fields are those of the word. -/
theorem statusReadLayout : Obligations.StatusReadLayout := by
  intro s w
  obtain ⟨hbusy, hdone, herr, hactive, hpvalid, hsynZero, hdecFail, hchk⟩ :=
    getLsbD_statusFlags s.cfg.hasChk s.status
  obtain ⟨hchkActive, hchkRes, hecho⟩ := checkFlags_fields s.cfg.hasChk s.status
  have flag {i : Nat} (hi : i < 11) {b : Bool} (h : (statusFlags s.cfg.hasChk s.status).getLsbD i = b) :
      w.getLsbD i = b := (getLsbD_statusWord_of_flag _ _ _ hi).trans h
  exact ⟨busRead_of_mapped (regAt_status _) rfl, flag (by decide) hbusy, flag (by decide) hdone,
    flag (by decide) herr, flag (by decide) hactive, flag (by decide) hpvalid, flag (by decide) hsynZero,
    flag (by decide) hdecFail, flag (by decide) ((hchk 0).trans hchkActive),
    (extract_statusWord_chkRes _ _ _).trans hchkRes, flag (by decide) ((hchk 3).trans hecho),
    getLsbD_statusWord_irq _ _ _, extract_statusWord_gap _ _ _, extract_statusWord_errCode _ _ _,
    extract_statusWord_top _ _ _⟩

end Sys2Proof.Machine
end

section
/-! PROOFS. Errors: the first one is kept (O10), the formats of ERRINFO (O11), the order of the checks of a write (O12),
and the busy rule over every write (O13). -/

namespace Sys2Proof.Machine

/-! ## The error record -/

/-- Settles O10: the capture records the error or keeps the earlier one; then irq for the new status. -/
theorem firstErrorIsKept : Obligations.FirstErrorIsKept := by
  intro s code info
  refine ⟨fun herr => ?_, fun herr => ?_⟩
  · have hcapture : s.capture code info =
        { s with status := { s.status with err := true, errCode := code }, errInfo := info } :=
      if_neg (ne_true_of_eq_false herr)
    rw [raiseError_eq, State.rejected, hcapture]
    rfl
  · have hcapture : s.capture code info = s := if_pos herr
    rw [raiseError_eq, State.rejected, hcapture]
    rfl

theorem toNat_accessInfo (a : BusWrite) :
    (accessInfo a).toNat = 2 ^ 31 + a.off.toNat * 2 ^ 16 + a.data.toNat % 2 ^ 16 := by
  have htop : (1#1 ++ 0#4).toNat = 16 := by decide
  have hlow : (a.data.extractLsb' 0 16).toNat = a.data.toNat % 2 ^ 16 := by simp
  rw [accessInfo, BitVec.toNat_append, ← Nat.shiftLeft_add_eq_or_of_lt (BitVec.isLt _), hlow, BitVec.toNat_append,
    ← Nat.shiftLeft_add_eq_or_of_lt a.off.isLt]
  simp only [htop, Nat.shiftLeft_eq]
  omega

/-- Settles O11: the access-class word as a number, and the codes by evaluation. -/
theorem errorInformationFormats : Obligations.ErrorInformationFormats :=
  ⟨fun a => ⟨toNat_accessInfo a, rfl⟩, by decide, by decide⟩

/-! ## The access checks (60_exceptions R244 steps 1 and 2) -/

/-- The write has a bad size or alignment, or its offset has no register that can be written (20_memory R62, R64). -/
def AccessFails (hasChk : Bool) (a : BusWrite) : Prop :=
  a.size ≠ .four ∨ a.off.toNat % 4 ≠ 0 ∨ ∀ r, regAt hasChk a.off = some r → r.access = .ro

/-- A write that passes goes to a register that is not read-only. -/
theorem mapped_of_not_accessFails {hasChk : Bool} {a : BusWrite} (h : ¬ AccessFails hasChk a) :
    ∃ r, regAt hasChk a.off = some r ∧ r.access ≠ .ro ∧ a = portWrite a.off a.data := by
  obtain ⟨off, size, data⟩ := a
  simp only [AccessFails, not_or, not_not, not_forall] at h
  obtain ⟨rfl, -, r, hr, hro⟩ := h
  exact ⟨r, hr, hro, rfl⟩

/-- A command word is never rejected with ACCESS. -/
theorem decodeCommand_ne_access (hasChk : Bool) (w : Word) : decodeCommand hasChk w ≠ .error .access := by
  rcases decodeCommand_cases hasChk w with ⟨zeroBits, -, hreserved, hlegal⟩ | ⟨-, hbad⟩
  · by_cases hw : w &&& zeroBits = 0
    · obtain ⟨i, hi⟩ := hlegal hw
      rw [hi]
      nofun
    · rw [hreserved hw]
      nofun
  · rw [hbad]
    nofun

theorem decodeAt_eq_access_iff (hasChk : Bool) (r : Reg) (data : Word) :
    decodeAt hasChk r data = .error .access ↔ r.access = .ro := by
  cases r with
  | cmd => exact iff_of_false (decodeCommand_ne_access hasChk data) nofun
  | ctrl | encData | gfA | gfB | gfR | chkData | cw _ => exact iff_of_false nofun nofun
  | _ => exact iff_of_true rfl rfl

/-- The decoder's ACCESS is exactly the failure of an access check. -/
theorem decodeWrite_eq_access_iff (hasChk : Bool) (a : BusWrite) :
    decodeWrite hasChk a = .error .access ↔ AccessFails hasChk a := by
  constructor
  · intro h
    by_contra hpass
    obtain ⟨r, hr, hro, ha⟩ := mapped_of_not_accessFails hpass
    rw [ha, decodeWrite_port hr, decodeAt_eq_access_iff] at h
    exact hro h
  · obtain ⟨off, size, data⟩ := a
    intro h
    cases size with
    | one | two => rfl
    | four =>
      cases hr : regAt hasChk off with
      | none => exact decodeWrite_unmapped hr data
      | some r =>
        refine (decodeWrite_port hr data).trans ((decodeAt_eq_access_iff hasChk r data).mpr ?_)
        rcases h with hsize | halign | hro
        · exact absurd rfl hsize
        · exact nomatch hr.symm.trans (regAt_of_misaligned halign hasChk)
        · exact hro r hr

/-- Past the access checks, a write to any register but CMD is an instruction. -/
theorem decodeWrite_of_not_command {hasChk : Bool} {a : BusWrite} (h : ¬ AccessFails hasChk a) (hcmd : a.off ≠ 0x014) :
    ∃ i, decodeWrite hasChk a = .ok i := by
  obtain ⟨r, hr, hro, ha⟩ := mapped_of_not_accessFails h
  rw [ha, decodeWrite_port hr]
  cases r with
  | cmd => exact absurd (offset_of_regAt hr).symm hcmd
  | ctrl | encData | gfA | gfB | gfR | chkData | cw _ => exact ⟨_, rfl⟩
  | _ => exact absurd rfl hro

theorem busWrite_of_accessFails {a : BusWrite} {s : State} (h : AccessFails s.cfg.hasChk a) :
    busWrite a s = .next (s.rejected .access (accessInfo a)) := by
  simp only [busWrite, (decodeWrite_eq_access_iff _ a).mpr h]
  exact raiseError_eq _ _ s

/-! ## The exact SOFT_RESET word, and the busy rule (60_exceptions R244 steps 3 and 4, R251) -/

theorem encode_softReset : encode .softReset = ⟨0x014, .four, 0x00000001⟩ := by decide

theorem busWrite_softReset (s : State) :
    busWrite ⟨0x014, .four, 0x00000001⟩ s = .next s.resetRegisters.settleIrq := by
  rw [← encode_softReset]
  exact busWrite_encode rfl nofun

/-- Every instruction that exists but SOFT_RESET begins with the busy rule. -/
theorem exec_of_busy {i : Instr} {s : State} (hb : s.status.busy = true) (hi : i ≠ .softReset) (hwf : i.wf = true)
    (hchk : i.needsChk = true → s.cfg.hasChk = true) :
    exec i s = .next (s.rejected .busy (accessInfo (encode i))) := by
  cases i with
  | softReset => exact absurd rfl hi
  | chkData _ => exact (if_pos (hchk rfl)).trans (unlessBusy_of_busy hb _ _)
  | wrCw _ _ => exact (if_neg (by simpa [Instr.wf] using hwf)).trans (unlessBusy_of_busy hb _ _)
  | _ => exact unlessBusy_of_busy hb _ _

/-- On a busy block a write that passes the access checks is rejected with BUSY, whether it is an instruction or a faulty
command word. -/
theorem busWrite_of_busy {a : BusWrite} {s : State} (hb : s.status.busy = true)
    (hpass : decodeWrite s.cfg.hasChk a ≠ .error .access) (ha : a ≠ ⟨0x014, .four, 0x00000001⟩) :
    busWrite a s = .next (s.rejected .busy (accessInfo a)) := by
  cases hd : decodeWrite s.cfg.hasChk a with
  | ok i =>
    obtain ⟨rfl, hwf, hchk⟩ := encodeOfDecode _ _ _ hd
    have hi : i ≠ .softReset := fun h => ha ((congrArg encode h).trans encode_softReset)
    exact (busWrite_of_decode hd).trans (exec_of_busy hb hi hwf hchk)
  | error reason =>
    cases reason with
    | access => exact absurd hd hpass
    | badOpcode => simp only [busWrite, hd, unlessBusy_of_busy hb]
    | rsvdArg => exact busWrite_of_rsvdArg_of_busy hb hd

/-- SOFT_RESET, the one instruction that a busy block accepts, keeps the buffer. -/
theorem busWrite_cw_of_busy {a : BusWrite} {s t : State} (hb : s.status.busy = true) (h : busWrite a s = .next t) :
    t.cw = s.cw := by
  rcases busWrite_cases h with ⟨code, info, -, rfl⟩ | ⟨i, -, hexec⟩
  · exact s.rejected_cw code info
  rcases exec_cases hexec with ⟨code, info, -, rfl⟩ | ⟨⟨hready, -, -⟩, rfl⟩
  · exact s.rejected_cw code info
  · by_cases hi : i = .softReset
    · subst hi
      rfl
    · exact absurd (hready hi) (ne_false_of_eq_true hb)

/-- Settles O13: the busy rule over the writes and over the instructions, and the buffer under both. -/
theorem busyRejectsAllButSoftReset : Obligations.BusyRejectsAllButSoftReset := fun s hb =>
  ⟨fun _ => busWrite_of_busy hb, busWrite_softReset s, fun _ => exec_of_busy hb, fun _ _ => busWrite_cw_of_busy hb⟩

/-! ## The order of the checks (60_exceptions R244) -/

/-- Settles O12: step by step, with the three classes of command words for the checks of step 5. -/
theorem writeChecksInOrder : Obligations.WriteChecksInOrder := by
  intro s a accessBad isCmd legalOpcode reserved
  have hcommand (hpass : ¬ accessBad) (hcmd : isCmd) : a = commandWrite a.data := by
    obtain ⟨-, -, -, ha⟩ := mapped_of_not_accessFails hpass
    exact ha.trans (congrArg (portWrite · a.data) hcmd)
  obtain ⟨hillegal, hlegal⟩ := commandWordsFallInThreeClasses s.cfg.hasChk a.data
  refine ⟨busWrite_of_accessFails, fun hpass hcmd hdata => ?_, fun hpass hinexact hb => ?_,
    fun hpass hr hcmd hopc => ?_, fun hpass hr hcmd ⟨zeroBits, hmem, hbits⟩ => ?_, fun hpass hr hchecked => ?_⟩
  · rw [hcommand hpass hcmd, hdata]
    exact busWrite_softReset s
  · refine busWrite_of_busy hb (mt (decodeWrite_eq_access_iff _ a).mp hpass) ?_
    rintro rfl
    exact hinexact ⟨rfl, rfl⟩
  · have hbad := (hillegal fun zeroBits hmem => hopc ⟨zeroBits, hmem⟩).2 s rfl hr
    rwa [← hcommand hpass hcmd] at hbad
  · have hrsvd := ((hlegal zeroBits hmem).1 hbits).2 s rfl hr
    rwa [← hcommand hpass hcmd] at hrsvd
  · have hdecodes : ∃ i, decodeWrite s.cfg.hasChk a = .ok i := by
      by_cases hcmd : isCmd
      · obtain ⟨⟨zeroBits, hmem⟩, hzero⟩ := hchecked hcmd
        rw [hcommand hpass hcmd]
        exact (hlegal zeroBits hmem).2 (not_not.mp fun hbits => hzero ⟨zeroBits, hmem, hbits⟩)
      · exact decodeWrite_of_not_command hpass hcmd
    obtain ⟨i, hi⟩ := hdecodes
    exact ⟨i, encode_of_decodeWrite hi, busWrite_of_decode hi⟩

end Sys2Proof.Machine
end

section
/-! PROOFS. The interrupt output after every turn (O14), and the reads of a busy block (O18). -/

namespace Sys2Proof.Machine

/-! ## The interrupt output (60_exceptions R245) -/

/-- Any answer of a bus write ends with irq recomputed. -/
theorem busWrite_settled {a : BusWrite} {s t : State} (h : busWrite a s = .next t) :
    t.irq = irqLevel t.ctrl t.status := by
  rcases busWrite_cases h with ⟨code, info, -, rfl⟩ | ⟨i, -, hexec⟩
  · rfl
  · rcases exec_cases hexec with ⟨code, info, -, rfl⟩ | ⟨-, rfl⟩
    · rfl
    · rfl

/-- A turn of any agent but a host read or an engine without a job ends with irq recomputed. -/
theorem runTurn_settled {turn : Turn} {s t : State} (h : runTurn turn s = .next t)
    (hread : ∀ addr size, turn ≠ .read addr size) (hengine : turn = .engine → s.job ≠ none) :
    t.irq = irqLevel t.ctrl t.status := by
  cases turn with
  | write _ _ _ =>
    obtain ⟨_, -, hwrite⟩ := runTurn_write_next h
    exact busWrite_settled hwrite
  | read addr size => exact absurd rfl (hread addr size)
  | engine =>
    rcases engineTurn_cases h with ⟨hjob, -⟩ | ⟨-, rfl⟩
    · exact absurd hjob (hengine rfl)
    · rfl
  | reset | powerUp => cases h; rfl

/-- Settles O14: the turns end with irq recomputed, STATUS shows it, and the reset values make the formula false. -/
theorem irqFollowsItsFormula : Obligations.IrqFollowsItsFormula := by
  refine ⟨fun turn s t h hread hengine => ?_, fun s => getLsbD_statusWord_irq _ _ _, fun s t h => ?_⟩
  · rw [runTurn_settled h hread hengine, irqLevel, ieDone, ieErr, ieChk, bne, beq_eq_decide, decide_not]
  · cases (complete_resetRegisters s).symm.trans h
    rfl

/-! ## Reads while BUSY (60_exceptions R252) -/

theorem inJobset_iff (r : Reg) :
    inJobset r = true ↔ r = .decNerr ∨ r = .encPad ∨ r = .encCount ∨ (∃ k, r = .cw k) ∨ (∃ j, r = .parity j) ∨
      (∃ i, r = .syn i) ∨ ∃ k, r = .errLoc k := by
  cases r <;> simp [inJobset]

/-- A read of a JOBSET register of a busy block draws the next free value. -/
theorem busRead_of_drawn {s : State} {off : Offset} {r : Reg} (hb : s.status.busy = true)
    (hr : regAt s.cfg.hasChk off = some r) (hj : inJobset r = true) :
    busRead off .four s = { s with rdata := some (Config.busyRead s.draws), draws := s.draws + 1 } := by
  have hdraws : readDraws s off .four = true := by simp only [readDraws, hr, hb, hj, Bool.and_self]
  exact if_pos hdraws

/-- Settles O18, by whether a job may write the register. -/
theorem jobsetReadsWhileBusyAreFree : Obligations.JobsetReadsWhileBusyAreFree := by
  intro off s r hb hr jobset
  have hjobset : inJobset r = true ↔ jobset := inJobset_iff r
  exact ⟨fun hj => busRead_of_drawn hb hr (hjobset.mpr hj),
    fun hj => busRead_of_exact hr fun ⟨_, hin⟩ => hj (hjobset.mp hin)⟩

end Sys2Proof.Machine
end

section
/-! PROOFS. The engine: the frame of a completion (O56), and the end of every pending job (O9). -/

namespace Sys2Proof.Machine

/-! ## The frame (60_exceptions R252) -/

/-- The completion of DEC_CORRECT in the form of an update, whether or not a codeword was found
(42_syndrome_decoder R166). -/
theorem completeDecCorrect_update (pad : Byte) (s : State) :
    ∃ cw syn errLoc decNerr synZero decFail, completeDecCorrect pad s = { s with
      cw := cw, syn := syn, errLoc := errLoc, decNerr := decNerr, job := none,
      status := { s.status with synZero := synZero, decFail := decFail, busy := false, done := true } } := by
  cases h : decodeWord s.rom pad.toNat (s.receivedWord pad) with
  | some code => exact ⟨_, _, _, _, _, _, completeDecCorrect_of_some h⟩
  | none => exact ⟨s.cw, _, _, _, _, _, completeDecCorrect_of_none h⟩

/-- Settles O56: with no job the turn changes nothing, and each completion is an update of the fields that the frame
names. -/
theorem frameOfEngineCompletion : Obligations.FrameOfEngineCompletion := by
  intro s t h
  cases hjob : s.job with
  | none =>
    obtain ⟨-, rfl⟩ | ⟨⟨job, hsome⟩, -⟩ := engineTurn_cases h
    · rw [← hjob]
      exact ⟨rfl, rfl, rfl, fun _ _ => rfl⟩
    · exact nomatch hjob.symm.trans hsome
  | some job =>
    cases job with
    | encBlock pad =>
      obtain rfl := Host.Outcome.next.inj ((runTurn_engine_of_encBlock hjob).symm.trans h)
      exact ⟨rfl, rfl, rfl, nofun⟩
    | synCalc pad =>
      obtain rfl := Host.Outcome.next.inj ((runTurn_engine_of_synCalc hjob).symm.trans h)
      exact ⟨rfl, rfl, rfl, fun _ _ => rfl⟩
    | decCorrect pad =>
      obtain rfl := Host.Outcome.next.inj ((runTurn_engine_of_decCorrect hjob).symm.trans h)
      obtain ⟨cw, syn, errLoc, decNerr, synZero, decFail, hupdate⟩ := completeDecCorrect_update pad s
      rw [hupdate]
      exact ⟨rfl, rfl, rfl, nofun⟩

/-! ## The agenda, which only `step` takes turns from (log 1) -/

theorem effect_agenda (i : Instr) (s : State) : (effect i s).agenda = s.agenda := by
  cases i with
  | clrStatus mask => exact congrArg (·.agenda) (s.clearStatus_eq mask)
  | chkData data =>
    obtain ⟨_, _, _, _, _, _, _, _, hupdate⟩ := s.feedPackage_update (byteOperand data)
    exact congrArg (·.agenda) hupdate
  | _ => rfl

theorem State.rejected_agenda (s : State) (code : ErrCode) (info : Word) :
    (s.rejected code info).agenda = s.agenda := by
  simp [State.rejected]

theorem busWrite_agenda {a : BusWrite} {s t : State} (h : busWrite a s = .next t) : t.agenda = s.agenda := by
  rcases busWrite_cases h with ⟨code, info, -, rfl⟩ | ⟨i, -, hexec⟩
  · exact s.rejected_agenda code info
  · rcases exec_cases hexec with ⟨code, info, -, rfl⟩ | ⟨-, rfl⟩
    · exact s.rejected_agenda code info
    · exact effect_agenda i s

theorem runTurn_agenda {turn : Turn} {s t : State} (h : runTurn turn s = .next t) : t.agenda = s.agenda := by
  rcases runTurn_cases h with ⟨a, ha⟩ | ⟨off, size, rfl⟩ | he | rfl | rfl
  · exact busWrite_agenda ha
  · obtain ⟨rdata, draws, hread⟩ := busRead_frame off size s
    rw [hread]
  · rw [(frameOfEngineCompletion s t he).1]
  · rfl
  · rfl

/-! ## Runs -/

theorem runSteps_succ {s t : State} (h : step s = .next t) (n : Nat) : runSteps (n + 1) s = runSteps n t := by
  simp only [runSteps, h]

/-- A step with a routed turn next takes that turn off the agenda. -/
theorem step_takes_turn {s : State} {turn : Turn} {rest : List Turn} (hc : configOk s.cfg = true)
    (ha : s.agenda = turn :: rest) (hr : routedTurn s.cfg turn = true) :
    ∃ t, step s = .next t ∧ t.agenda = rest ∧ t.cfg = s.cfg := by
  obtain ⟨t, ht⟩ := runTurn_answers (s := { s with agenda := rest }) hr
  exact ⟨t, (step_cons hc ha).trans ht, runTurn_agenda ht, (runTurn_cfg ht).trans rfl⟩

/-- A step with an empty agenda leaves no job pending (60_exceptions R250). -/
theorem step_ends_job {s : State} (hc : configOk s.cfg = true) (ha : s.agenda = []) :
    ∃ t, step s = .next t ∧ t.job = none := by
  obtain ⟨t, ht⟩ := engineTurn_answers s
  exact ⟨t, (step_nil hc ha).trans ht, by rw [(frameOfEngineCompletion s t ht).1]⟩

/-- With legal parameters and a routed agenda, the step after the last turn leaves no job pending. -/
theorem runSteps_ends_job {agenda : List Turn} {s : State} (ha : s.agenda = agenda) (hc : configOk s.cfg = true)
    (hr : ∀ turn ∈ agenda, routedTurn s.cfg turn = true) :
    ∃ t, runSteps (agenda.length + 1) s = .next t ∧ t.job = none := by
  induction agenda generalizing s with
  | nil =>
    obtain ⟨t, ht, hjob⟩ := step_ends_job hc ha
    exact ⟨t, runSteps_succ ht 0, hjob⟩
  | cons turn rest ih =>
    obtain ⟨hturn, hrest⟩ := List.forall_mem_cons.mp hr
    obtain ⟨u, hu, hagenda, hcfg⟩ := step_takes_turn hc ha hturn
    rw [← hcfg] at hc hrest
    obtain ⟨t, ht, hjob⟩ := ih hagenda hc hrest
    exact ⟨t, (runSteps_succ hu _).trans ht, hjob⟩

/-- Settles O9: the bound is reached once every turn is taken and the engine has moved. -/
theorem pendingJobsEnd : Obligations.PendingJobsEnd := fun _ hc hr =>
  let ⟨t, ht, hjob⟩ := runSteps_ends_job rfl hc hr
  ⟨_, t, le_rfl, ht, hjob⟩

end Sys2Proof.Machine
end

section
/-! PROOFS. Power-up: every register at its reset value, and every byte of CW a free value (O21). -/

namespace Sys2Proof.Machine

/-- A power-up is a reset of the state whose buffer is emptied and whose count of power-ups is one more (70_reset R270,
R271). -/
theorem powerUp_eq_resetRegisters (s : State) :
    powerUp s = State.resetRegisters { s with cw := { cells := [] }, powerUps := s.powerUps + 1 } := rfl

theorem runTurn_powerUp (s : State) : runTurn .powerUp s = .next (powerUp s) :=
  complete_resetRegisters { s with cw := { cells := [] }, powerUps := s.powerUps + 1 }

/-- In a buffer without a written byte every index reads as the free value of the last power-up (log 5). -/
theorem State.cwByte_of_empty {s : State} (h : s.cw = { cells := [] }) (k : Nat) :
    s.cwByte k = Config.powerUpByte s.powerUps k := by
  have hread : s.cw.read k = none := by rw [h]; rfl
  rw [State.cwByte, hread, Option.getD_none]

/-- Settles O21: the turn ends in `powerUp s`, a reset state with an empty buffer. -/
theorem powerUpLeavesBufferUnspecified : Obligations.PowerUpLeavesBufferUnspecified := fun s =>
  ⟨powerUp s, runTurn_powerUp s, powerUp_eq_resetRegisters s, State.cwByte_of_empty (s := powerUp s) rfl⟩

end Sys2Proof.Machine
end
